-- ==== Sys2Proof/Word.lean ====
section
/-! DEFINITION. The word types of the RXDEC core (00_scope.md R10 to R12). -/

namespace Sys2Proof

/-- A host-visible register and a command word are 32 bits wide (00_scope.md R10, 30_encoding.md R100). -/
abbrev Word := BitVec 32

/-- An element of a byte sequence (00_scope.md R12). -/
abbrev Byte := BitVec 8

/-- A bit sequence, first bit in time first (00_scope.md R12); `true` is the bit 1. -/
abbrev Bits := List Bool

/-- A byte sequence, first byte first (00_scope.md R12). -/
abbrev Bytes := List Byte

/-- A cipher block or key: 16 bytes, byte 0 in the most significant place (45_decryptor.md R262; log entry 26). -/
abbrev Block := BitVec 128

end Sys2Proof
end

