-- ==== Sys2Proof/Config.lean ====
section
/-! DEFINITION. The configuration parameters the spec leaves OPEN (00_scope.md R6, R7, R9) and the machine's own,
unknown, legal configuration. -/

namespace Sys2Proof

/-- The parameters of 00_scope.md R7 under the spec's names. RESULT_DEPTH and RESPONSE_DEPTH are not here: the model
takes both FIFOs as unbounded (10_state.md R47, R48). -/
structure Config where
  /-- width in bits of the plain marker -/
  A : Nat
  /-- the plain marker, an `A`-bit value -/
  ASM : Nat
  /-- the convolved marker, a `W`-bit value -/
  CASM : Nat
  /-- least number of matching bits in the convolved domain -/
  T_C : Nat
  /-- least number of matching bits in the decoded domain -/
  T_D : Nat
  /-- outer-code block size in bytes -/
  N : Nat
  /-- routing-header size in bytes -/
  R : Nat
  /-- control-header size in bytes -/
  C : Nat
  /-- data-region size in bytes -/
  D : Nat
  /-- overlap margin in bits -/
  V : Nat
  /-- most unconsumed bits the stream buffer holds -/
  BUF_CAP : Nat
  /-- whether bits pushed in datagram mode are differentially decoded -/
  dgramDiff : Bool
  /-- INNER_DECODE (43_fec_adapter.md R220); `none` is Failure -/
  innerDecode : Bytes → Option (Bytes × Nat)
  /-- OUTER_DECODE (43_fec_adapter.md R221); `none` is Failure -/
  outerDecode : Bytes → Option (Bytes × Nat)
  /-- BLOCK_DEC (45_decryptor.md R262), key first -/
  blockDec : Block → Block → Block
  /-- the block encryption BLOCK_DEC inverts (45_decryptor.md R262) -/
  blockEnc : Block → Block → Block
  /-- KEY_TEXT, a character string -/
  keyText : List Char
  innerAvailable : Bool
  outerAvailable : Bool
  /-- FREE VALUE: what a 32-bit register view holds when its value does not fit in 32 bits (log entry 11). -/
  overwide : Nat → Word
  /-- FREE VALUE: what a use of KEY reads while KEY holds no value (10_state.md R37; log entry 9). -/
  unheldKey : Block
deriving Inhabited

namespace Config

/-- The numeric constraints of 00_scope.md R7, with W, K and F written out (R8). -/
def geometryOk (c : Config) : Bool :=
  decide (0 < c.A) && decide (c.A % 8 = 0) && decide (c.ASM < 2 ^ c.A) && decide (c.CASM < 2 ^ (2 * c.A)) &&
    decide (c.T_C ≤ 2 * c.A) && decide (c.T_D ≤ c.A) && decide (2 + c.R + c.C + c.D + 4 ≤ c.N) &&
    decide (0 < c.D) && decide (c.D % 16 = 0) && decide (c.V < 2 * (c.A + 8 * c.N)) &&
    decide (2 * (c.A + 8 * c.N) ≤ c.BUF_CAP)

/-- A legal configuration: the numeric constraints of R7 and the length and inverse contracts of R220, R221 and R262.
Anything else is "not a configuration of this hardware" (00_scope.md R9). -/
structure Legal (c : Config) : Prop where
  geometry : c.geometryOk = true
  innerLength : ∀ raw dec n, raw.length = 2 * (c.A / 8 + c.N) → c.innerDecode raw = some (dec, n) →
    dec.length = c.A / 8 + c.N
  outerLength : ∀ blk data n, blk.length = c.N → c.outerDecode blk = some (data, n) →
    data.length = 2 + c.R + c.C + c.D + 4
  blockInverse : ∀ k p, c.blockDec k (c.blockEnc k p) = p

/-- A configuration that shows the constraints can be met. No rule rests on its values (log entry 2). -/
def someLegal : Config where
  A := 8
  ASM := 0
  CASM := 0
  T_C := 0
  T_D := 0
  N := 22
  R := 0
  C := 0
  D := 16
  V := 0
  BUF_CAP := 368
  dgramDiff := false
  innerDecode := fun _ => none
  outerDecode := fun _ => none
  blockDec := fun _ b => b
  blockEnc := fun _ b => b
  keyText := []
  innerAvailable := false
  outerAvailable := false
  overwide := fun _ => 0
  unheldKey := 0

theorem someLegal_legal : someLegal.Legal where
  geometry := by decide
  innerLength := by intro raw dec n _ h; simp [someLegal] at h
  outerLength := by intro blk data n _ h; simp [someLegal] at h
  blockInverse := fun _ _ => rfl

end Config

/-- A piece of this hardware: a legal configuration whose frame length F fits FRAME_BITS, a 32-bit register that
holds "the constant F" (10_state.md R49; DEDUCED, log entry 28). The field values given here only show Lean that the
type is inhabited (log entry 2). -/
structure Hardware where
  cfg : Config := Config.someLegal
  legal : cfg.Legal := by exact Config.someLegal_legal
  frameFits : 2 * (cfg.A + 8 * cfg.N) < 2 ^ 32 := by decide
deriving Inhabited

/-- The hardware the machine runs on. It has no body: nothing can be proved of its parameters but that they are legal,
so every statement about `exec` and `step` holds for every legal configuration (log entry 1). -/
opaque hardware : Hardware

/-- The machine's configuration, fixed from reset onwards (00_scope.md R6, 10_state.md R50). -/
abbrev Config.machine : Config := hardware.cfg

theorem Config.machine_legal : Config.machine.Legal := hardware.legal

theorem Config.machine_frameFits : 2 * (Config.machine.A + 8 * Config.machine.N) < 2 ^ 32 := hardware.frameFits

end Sys2Proof
end

