-- ==== Sys2Proof/Syntax.lean ====
section
/-! DEFINITION. The instructions of the core: the host commands and the sequencer steps (00_scope.md R3), one
constructor per row of spec/opcode_table.json. -/

namespace Sys2Proof

/-- The operating mode, the 1-bit register MODE (10_state.md R46). -/
inductive Mode where
  | streaming
  | datagram
deriving DecidableEq, Repr

/-- The values SEQ_STATE holds (10_state.md R32). The codes 0x7 to 0xE are never held and have no name here. -/
inductive SeqState where
  | idle
  | scanning
  | inner
  | decAsm
  | outer
  | integrity
  | decrypt
  | cfgError
deriving DecidableEq, Repr

/-- Host commands (30_encoding.md R101) and sequencer steps (46_resync_sequencer.md R280). -/
inductive Instr where
  | nop
  /-- `nm1` is the bit count minus 1; the first bit in time is `data[15]` (30_encoding.md R102). -/
  | pushBits (nm1 : BitVec 4) (data : BitVec 16)
  | scan
  | dgram
  | resetStream
  | setMode (m : Mode)
  | readReg (addr : BitVec 8)
  | clear (cnt flg : Bool)
  /-- Opcodes 0x8 to 0xF, with any value in bits [27:0] (40_host_commands.md R158). -/
  | reservedOp (op : BitVec 4) (ignored : BitVec 28)
  | seqScanning
  | seqInner
  | seqDecAsm
  | seqOuter
  | seqIntegrity
  | seqDecrypt
  | seqCfgError
deriving DecidableEq, Repr

end Sys2Proof
end

