-- ==== Sys2Proof/Machine/DiffDecoder.lean ====
section
/-! DEFINITION. The differential bit decoder (41_diff_decoder.md). -/

namespace Sys2Proof.Machine

/-- Whether pushed bits are differentially decoded (41_diff_decoder.md R181). -/
def diffApplies (c : Config) (m : Mode) : Bool :=
  match m with
  | .streaming => true
  | .datagram => c.dgramDiff

/-- DiffDecode: the decoded bit and the new PREV_BIT (41_diff_decoder.md R180). -/
def diffDecode (c : Config) (m : Mode) (prev r : Bool) : Bool × Bool :=
  if diffApplies c m then (r ^^ prev, r) else (r, prev)

/-- DiffDecode over a raw sequence, first bit first: the decoded bits and the last PREV_BIT. -/
def diffDecodeAll (c : Config) (m : Mode) : Bool → Bits → Bits × Bool
  | prev, [] => ([], prev)
  | prev, r :: rest =>
    let one := diffDecode c m prev r
    let more := diffDecodeAll c m one.2 rest
    (one.1 :: more.1, more.2)

/-- The transmitter's differential encoder, from the last encoded bit (41_diff_decoder.md R183). -/
def diffEncodeAll : Bool → Bits → Bits
  | _, [] => []
  | last, d :: rest => (d ^^ last) :: diffEncodeAll (d ^^ last) rest

end Sys2Proof.Machine
end

