-- ==== Sys2Proof/Machine/Bits.lean ====
section
/-! DEFINITION. The sequence primitives of 00_scope.md R12 to R16. -/

namespace Sys2Proof.Machine

/-- The bit as a number. -/
def bitNat (b : Bool) : Nat :=
  if b then 1 else 0

/-- ToInt: the unsigned integer whose most significant bit is the first (00_scope.md R13). -/
def toInt (s : Bits) : Nat :=
  s.foldl (fun acc b => 2 * acc + bitNat b) 0

/-- The half-open slice `s[i .. i+n)` (00_scope.md R12). -/
def slice {α : Type} (s : List α) (i n : Nat) : List α :=
  (s.drop i).take n

/-- Pack: each group of eight bits becomes a byte, first bit most significant (00_scope.md R14). -/
def pack : Bits → Bytes
  | b0 :: b1 :: b2 :: b3 :: b4 :: b5 :: b6 :: b7 :: rest =>
    BitVec.ofNat 8 (toInt [b0, b1, b2, b3, b4, b5, b6, b7]) :: pack rest
  | _ => []

/-- The bits of one byte, most significant first. -/
def byteBits (b : Byte) : Bits :=
  [b.getLsbD 7, b.getLsbD 6, b.getLsbD 5, b.getLsbD 4, b.getLsbD 3, b.getLsbD 2, b.getLsbD 1, b.getLsbD 0]

/-- Unpack, the inverse of Pack (00_scope.md R14). -/
def unpack : Bytes → Bits
  | [] => []
  | b :: rest => byteBits b ++ unpack rest

/-- The number of 1 bits (00_scope.md R15). -/
def popcount (x : Nat) : Nat :=
  (List.range (Nat.log2 x + 1)).countP (fun i => Nat.testBit x i)

/-- Byte `o` of a sequence as a number; the rules read only inside their sequences (log entry 27). -/
def byteAt (b : Bytes) (o : Nat) : Nat :=
  (b.getD o 0).toNat

/-- LE16 (00_scope.md R16). -/
def le16 (b : Bytes) (o : Nat) : Nat :=
  byteAt b o + 2 ^ 8 * byteAt b (o + 1)

/-- LE32 (00_scope.md R16). -/
def le32 (b : Bytes) (o : Nat) : Nat :=
  byteAt b o + 2 ^ 8 * byteAt b (o + 1) + 2 ^ 16 * byteAt b (o + 2) + 2 ^ 24 * byteAt b (o + 3)

/-- The match score of two `width`-bit patterns: the number of agreeing bits (42_scanner.md R201,
43_fec_adapter.md R224). -/
def matchScore (width x y : Nat) : Nat :=
  width - popcount (x ^^^ y)

end Sys2Proof.Machine
end

