-- ==== Sys2Proof/WellFormed.lean ====
section
/-! DEFINITION. Which terms of `Instr` the encoding of 30_encoding.md admits. -/

namespace Sys2Proof

/-- A reserved-opcode word has an opcode in 0x8 .. 0xF (40_host_commands.md R158); every operand of every other
instruction fills its field. -/
def Instr.wellFormed : Instr → Bool
  | .nop => true
  | .pushBits _ _ => true
  | .scan => true
  | .dgram => true
  | .resetStream => true
  | .setMode _ => true
  | .readReg _ => true
  | .clear _ _ => true
  | .reservedOp op _ => op.getLsbD 3
  | .seqScanning => true
  | .seqInner => true
  | .seqDecAsm => true
  | .seqOuter => true
  | .seqIntegrity => true
  | .seqDecrypt => true
  | .seqCfgError => true

end Sys2Proof
end

