-- ==== Sys2Proof/Decode.lean ====
section
/-! DEFINITION. Decoding of command words and SEQ_STATE codes, the encoder, and the row patterns of
spec/opcode_table.json (30_encoding.md R100 to R105, 10_state.md R32). -/

namespace Sys2Proof

/-- MODE as its bit: 0 streaming, 1 datagram (10_state.md R46). -/
def Mode.bit : Mode → Bool
  | .streaming => false
  | .datagram => true

def Mode.ofBit : Bool → Mode
  | false => .streaming
  | true => .datagram

/-- The codes of SEQ_STATE (10_state.md R32). -/
def SeqState.code : SeqState → BitVec 4
  | .idle => 0x0#4
  | .scanning => 0x1#4
  | .inner => 0x2#4
  | .decAsm => 0x3#4
  | .outer => 0x4#4
  | .integrity => 0x5#4
  | .decrypt => 0x6#4
  | .cfgError => 0xF#4

/-- The state with a code; none for the codes 0x7 to 0xE, which are never held (10_state.md R32). -/
def SeqState.ofCode (k : BitVec 4) : Option SeqState :=
  match k.toNat with
  | 0 => some .idle
  | 1 => some .scanning
  | 2 => some .inner
  | 3 => some .decAsm
  | 4 => some .outer
  | 5 => some .integrity
  | 6 => some .decrypt
  | 15 => some .cfgError
  | _ => none

/-- What an instruction is encoded as: a word on the command port, or the SEQ_STATE code that selects a step
(opcode_table.json formats `cmd32` and `seq`). -/
inductive Code where
  | command (w : Word)
  | seq (k : BitVec 4)
deriving DecidableEq, Repr

/-- Why a code is no instruction. -/
inductive DecodeError where
  /-- a defined opcode with a non-zero reserved field (30_encoding.md R104) -/
  | reservedField (op : BitVec 4)
  /-- SEQ_STATE = IDLE selects no step (46_resync_sequencer.md R280) -/
  | idleSelectsNoStep
  /-- a SEQ_STATE code that is never held (10_state.md R32) -/
  | neverHeld (k : BitVec 4)
deriving DecidableEq, Repr

/-- `w[hi:lo]`, the field of `n` bits from bit `lo` up (00_scope.md R11). -/
def field (w : Word) (lo n : Nat) : BitVec n :=
  w.extractLsb' lo n

/-- An instruction whose reserved field must read zero (30_encoding.md R104). -/
def whenZero {n : Nat} (op : BitVec 4) (reserved : BitVec n) (i : Instr) : Except DecodeError Instr :=
  if reserved = 0 then .ok i else .error (.reservedField op)

/-- The command a word is, by the field layout of 30_encoding.md R101. -/
def decodeCommand (w : Word) : Except DecodeError Instr :=
  let op := field w 28 4
  match op.toNat with
  | 0 => whenZero op (field w 0 28) .nop
  | 1 => whenZero op (field w 20 8) (.pushBits (field w 16 4) (field w 0 16))
  | 2 => whenZero op (field w 0 28) .scan
  | 3 => whenZero op (field w 0 28) .dgram
  | 4 => whenZero op (field w 0 28) .resetStream
  | 5 => whenZero op (field w 1 27) (.setMode (.ofBit (w.getLsbD 0)))
  | 6 => whenZero op (field w 8 20) (.readReg (field w 0 8))
  | 7 => whenZero op (field w 2 26) (.clear (w.getLsbD 1) (w.getLsbD 0))
  | _ => .ok (.reservedOp op (field w 0 28))

/-- The sequencer step a state selects; IDLE selects none (46_resync_sequencer.md R280). -/
def SeqState.step : SeqState → Option Instr
  | .idle => none
  | .scanning => some .seqScanning
  | .inner => some .seqInner
  | .decAsm => some .seqDecAsm
  | .outer => some .seqOuter
  | .integrity => some .seqIntegrity
  | .decrypt => some .seqDecrypt
  | .cfgError => some .seqCfgError

def decodeSeq (k : BitVec 4) : Except DecodeError Instr :=
  match SeqState.ofCode k with
  | none => .error (.neverHeld k)
  | some st =>
    match st.step with
    | none => .error .idleSelectsNoStep
    | some i => .ok i

/-- Decoding, total on command words and SEQ_STATE codes. -/
def decode : Code → Except DecodeError Instr
  | .command w => decodeCommand w
  | .seq k => decodeSeq k

/-- A field value at bit `lo` of a word whose other bits are 0 (30_encoding.md R106). -/
def placed {n : Nat} (v : BitVec n) (lo : Nat) : Word :=
  BitVec.setWidth 32 v <<< lo

/-- Encoding, by the field layout of 30_encoding.md R101 and R106 and the state codes of 10_state.md R32. -/
def encode : Instr → Code
  | .nop => .command (placed 0x0#4 28)
  | .pushBits nm1 data => .command (placed 0x1#4 28 ||| placed nm1 16 ||| placed data 0)
  | .scan => .command (placed 0x2#4 28)
  | .dgram => .command (placed 0x3#4 28)
  | .resetStream => .command (placed 0x4#4 28)
  | .setMode m => .command (placed 0x5#4 28 ||| placed (BitVec.ofBool m.bit) 0)
  | .readReg addr => .command (placed 0x6#4 28 ||| placed addr 0)
  | .clear cnt flg => .command (placed 0x7#4 28 ||| placed (BitVec.ofBool cnt) 1 ||| placed (BitVec.ofBool flg) 0)
  | .reservedOp op ignored => .command (placed op 28 ||| placed ignored 0)
  | .seqScanning => .seq SeqState.scanning.code
  | .seqInner => .seq SeqState.inner.code
  | .seqDecAsm => .seq SeqState.decAsm.code
  | .seqOuter => .seq SeqState.outer.code
  | .seqIntegrity => .seq SeqState.integrity.code
  | .seqDecrypt => .seq SeqState.decrypt.code
  | .seqCfgError => .seq SeqState.cfgError.code

/-- A pattern of spec/opcode_table.json: a code matches when its bits under `mask` are those of `pattern`
(30_encoding.md R105). -/
inductive RowPattern where
  | command (pattern mask : Word)
  | seq (pattern mask : BitVec 4)
deriving DecidableEq, Repr

/-- The row of spec/opcode_table.json each instruction belongs to. -/
def Instr.row : Instr → RowPattern
  | .nop => .command 0x00000000 0xFFFFFFFF
  | .pushBits _ _ => .command 0x10000000 0xFFF00000
  | .scan => .command 0x20000000 0xFFFFFFFF
  | .dgram => .command 0x30000000 0xFFFFFFFF
  | .resetStream => .command 0x40000000 0xFFFFFFFF
  | .setMode _ => .command 0x50000000 0xFFFFFFFE
  | .readReg _ => .command 0x60000000 0xFFFFFF00
  | .clear _ _ => .command 0x70000000 0xFFFFFFFC
  | .reservedOp _ _ => .command 0x80000000 0x80000000
  | .seqScanning => .seq 0x1 0xF
  | .seqInner => .seq 0x2 0xF
  | .seqDecAsm => .seq 0x3 0xF
  | .seqOuter => .seq 0x4 0xF
  | .seqIntegrity => .seq 0x5 0xF
  | .seqDecrypt => .seq 0x6 0xF
  | .seqCfgError => .seq 0xF 0xF

def RowPattern.matchesCode : RowPattern → Code → Bool
  | .command p m, .command w => w &&& m == p
  | .seq p m, .seq k => k &&& m == p
  | .command _ _, .seq _ => false
  | .seq _ _, .command _ => false

/-- The code of a table row's bits: a row of at most 8 bits is a SEQ_STATE value, in bits [3:0]; any other row is a
command word (log entry 19). -/
def Code.ofTable (nbits w : Nat) : Code :=
  if nbits ≤ 8 then .seq (BitVec.ofNat 4 w) else .command (BitVec.ofNat 32 (w % 2 ^ nbits))

/-- The instruction the decoder reads from a row's bits, numbered as spec/opcode_table.json numbers them. -/
def decodeTableWord (nbits w : Nat) : Option Instr :=
  match decode (Code.ofTable nbits w) with
  | .ok i => some i
  | .error _ => none

end Sys2Proof
end

