-- ==== Sys2Proof/Machine/KeyText.lean ====
section
/-! DEFINITION. The key-material text formats (30_encoding.md R120, R121). -/

namespace Sys2Proof.Machine

/-- ASCII whitespace of step 1 of 30_encoding.md R120: space, tab, CR, LF. -/
def isKeySpace (ch : Char) : Bool :=
  ch.toNat == 32 || ch.toNat == 9 || ch.toNat == 13 || ch.toNat == 10

/-- Spaces and tabs, which step 3 removes around an item. -/
def isItemSpace (ch : Char) : Bool :=
  ch.toNat == 32 || ch.toNat == 9

/-- The text without the leading and trailing characters that satisfy `p`. -/
def trimBoth (p : Char → Bool) (t : List Char) : List Char :=
  ((t.dropWhile p).reverse.dropWhile p).reverse

/-- A hexadecimal digit of either case. -/
def hexDigit (ch : Char) : Option Nat :=
  let n := ch.toNat
  if 48 ≤ n ∧ n ≤ 57 then some (n - 48)
  else if 97 ≤ n ∧ n ≤ 102 then some (n - 87)
  else if 65 ≤ n ∧ n ≤ 70 then some (n - 55)
  else none

def hexByte (hi lo : Char) : Option Byte :=
  match hexDigit hi, hexDigit lo with
  | some h, some l => some (BitVec.ofNat 8 (16 * h + l))
  | _, _ => none

/-- Pairs of hexadecimal digits; none if a character is no digit or one is left over. -/
def hexPairs : List Char → Option Bytes
  | [] => some []
  | hi :: lo :: rest =>
    match hexByte hi lo, hexPairs rest with
    | some b, some bs => some (b :: bs)
    | _, _ => none
  | [_] => none

/-- The text split at every character `sep`; `n` separators give `n + 1` items. -/
def splitAtChar (sep : Char) : List Char → List (List Char)
  | [] => [[]]
  | ch :: rest =>
    if ch = sep then [] :: splitAtChar sep rest
    else
      match splitAtChar sep rest with
      | [] => [[ch]]
      | item :: items => (ch :: item) :: items

/-- One list item, exactly `0`, then `x` or `X`, then two hexadecimal digits. -/
def hexItem (item : List Char) : Option Byte :=
  match item with
  | [z, x, hi, lo] => if z = '0' ∧ (x = 'x' ∨ x = 'X') then hexByte hi lo else none
  | _ => none

/-- The items of the list form, each trimmed. -/
def hexItems : List (List Char) → Option Bytes
  | [] => some []
  | item :: rest =>
    match hexItem (trimBoth isItemSpace item), hexItems rest with
    | some b, some bs => some (b :: bs)
    | _, _ => none

/-- Sixteen bytes as one block, byte 0 in the most significant place (30_encoding.md R121; log entry 26). -/
def blockOfBytes (b : Bytes) : Block :=
  BitVec.ofNat 128 (b.foldl (fun acc x => 256 * acc + x.toNat) 0)

/-- Byte `i` of a block. -/
def blockByte (b : Block) (i : Nat) : Byte :=
  b.extractLsb' (8 * (15 - i)) 8

/-- The sixteen bytes of a block, byte 0 first. -/
def bytesOfBlock (b : Block) : Bytes :=
  (List.range 16).map (blockByte b)

/-- A parsed byte list is a key exactly when it has 16 bytes. -/
def keyOfBytes : Option Bytes → Option Block
  | none => none
  | some bs => if bs.length = 16 then some (blockOfBytes bs) else none

/-- KeyParse (30_encoding.md R120); `none` is Malformed. -/
def keyParse (text : List Char) : Option Block :=
  let t := trimBoth isKeySpace text
  if ',' ∈ t then keyOfBytes (hexItems (splitAtChar ',' t)) else keyOfBytes (hexPairs t)

end Sys2Proof.Machine
end

