-- ==== Sys2Proof/Machine/Boot.lean ====
section
/-! DEFINITION. What reset computes from the configuration (70_reset_and_hazards.md R361, R362). -/

namespace Sys2Proof.Machine

/-- KEY at reset; none when the key text is malformed (10_state.md R37). -/
def resetKey (c : Config) : Option Block :=
  keyParse c.keyText

/-- CFG_CAUSE at reset: key before inner before outer (70_reset_and_hazards.md R362). -/
def resetCause (c : Config) : BitVec 3 :=
  if resetKey c = none then 1
  else if c.innerAvailable = false then 2
  else if c.outerAvailable = false then 3
  else 0

/-- SEQ_STATE at reset (70_reset_and_hazards.md R362). -/
def resetSeqState (c : Config) : SeqState :=
  if resetCause c = 0 then .idle else .cfgError

end Sys2Proof.Machine
end

