-- ==== Sys2Proof/Machine/State.lean ====
section
/-! DEFINITION. The state of the core (10_state.md), the reasons a step can stop, and reset
(70_reset_and_hazards.md R360). -/

namespace Sys2Proof.Machine

/-- Why the machine stops. No fault is reachable from reset under a legal configuration. -/
inductive Fault where
  /-- A read of DEC before the attempt wrote it: "A model should treat a read of an unwritten latch as a fault"
  (10_state.md R43; 93_implementation_defined.md U23). Raised by SEQ_DEC_ASM and SEQ_OUTER. Safe. -/
  | unwrittenDec
  /-- A read of DATA before the attempt wrote it (10_state.md R43, U23, as for DEC). Raised by SEQ_INTEGRITY and
  SEQ_DECRYPT. Safe. -/
  | unwrittenData
  /-- A read of BUF outside `[OFFSET, BUFLEN)` (20_memory.md R72). Raised by SEQ_INNER. Safe. -/
  | bufReadOutOfRange
deriving DecidableEq, Repr

/-- Why the model gives no meaning. -/
inductive Refusal where
  /-- The instruction has no meaning yet. Raised by exec's refused arms only. Safe. -/
  | notModelled (mnemonic : String)
  /-- The configuration breaks a constraint of 00_scope.md R7 or a contract of its functions (43_fec_adapter.md R220,
  R221), so no reset state exists (R9, R19, U4). Raised by `Machine.boot`. Safe. -/
  | illegalConfiguration
deriving DecidableEq, Repr

/-- The result codes (30_encoding.md R116). `decryptionUnavailable` is never emitted as a record. -/
inductive ResultCode where
  | ok
  | syncNotFound
  | innerDecodeFailure
  | outerDecodeFailure
  | integrityMismatch
  | decryptionUnavailable
deriving DecidableEq, Repr

/-- A result record (30_encoding.md R114). -/
structure Record where
  code : ResultCode
  sub : BitVec 4
  mode : Mode
  offset : Word
  cscore : Word
  dscore : Word
  icorr : Word
  ocorr : Word
  payload : Bytes
deriving DecidableEq, Repr

/-- The sticky status flags (10_state.md R39). -/
structure StickyFlags where
  ovf : Bool
  cmdErr : Bool
  dlenErr : Bool
  lenClamp : Bool
deriving DecidableEq, Repr

/-- The pass flags EVAL and CAND_SEEN (10_state.md R40). -/
structure PassFlags where
  eval : Bool
  candSeen : Bool
deriving DecidableEq, Repr

/-- The event counters CNT_OK, CNT_SYNC, CNT_INNER, CNT_OUTER and CNT_INTEG (10_state.md R41). -/
structure Counters where
  ok : Word
  sync : Word
  inner : Word
  outer : Word
  integ : Word
deriving DecidableEq, Repr

/-- The attempt latches LAST_CSCORE, LAST_DSCORE, LAST_ICORR and LAST_OCORR (10_state.md R42). -/
structure Latches where
  cscore : Word
  dscore : Word
  icorr : Word
  ocorr : Word
deriving DecidableEq, Repr

/-- Whose step comes next. The interleaving of 20_memory.md R85 is plain data here (log entry 4). -/
inductive Turn where
  /-- HOST or SEQ, whichever is enabled -/
  | core
  /-- CONSUMER removes the head of the RESULT FIFO (10_state.md R47) -/
  | takeResult
  /-- CONSUMER removes the head of the RESPONSE FIFO (10_state.md R48) -/
  | takeResponse
  /-- the platform asserts reset (70_reset_and_hazards.md R360) -/
  | reset
deriving DecidableEq, Repr

/-- The state of the core, in the order of 10_state.md, and then the agents outside it. -/
@[ext]
structure State where
  seqState : SeqState
  offset : Word
  buflen : Word
  prevBit : Bool
  /-- `none` is "KEY holds no value" (10_state.md R37) -/
  key : Option Block
  cfgCause : BitVec 3
  flags : StickyFlags
  pass : PassFlags
  counters : Counters
  latches : Latches
  /-- `none` is "no value" (10_state.md R43) -/
  dec : Option Bytes
  /-- `none` is "no value" (10_state.md R43) -/
  data : Option Bytes
  /-- BUF: the bit of index `i` is element `i` (20_memory.md R70) -/
  buf : Bits
  mode : Mode
  /-- the RESULT FIFO, head first (10_state.md R47) -/
  results : List Record
  /-- the RESPONSE FIFO, head first (10_state.md R48) -/
  responses : List Word
  /-- MODEL'S OWN: the command words HOST has still to issue, oldest first (log entry 3) -/
  port : List Word
  /-- MODEL'S OWN: whose the coming steps are; once empty, the core's (log entry 4) -/
  turns : List Turn
deriving DecidableEq, Repr

/-- Reset under a configuration (70_reset_and_hazards.md R360 to R363). -/
def State.resetAt (c : Config) : State where
  seqState := resetSeqState c
  offset := 0
  buflen := 0
  prevBit := false
  key := resetKey c
  cfgCause := resetCause c
  flags := { ovf := false, cmdErr := false, dlenErr := false, lenClamp := false }
  pass := { eval := false, candSeen := false }
  counters := { ok := 0, sync := 0, inner := 0, outer := 0, integ := 0 }
  latches := { cscore := 0, dscore := 0, icorr := 0, ocorr := 0 }
  dec := none
  data := none
  buf := []
  mode := .streaming
  results := []
  responses := []
  port := []
  turns := []

/-- The machine right after reset. -/
def State.reset : State :=
  State.resetAt Config.machine

end Sys2Proof.Machine
end

