-- ==== Sys2Proof/Machine/Flags.lean ====
section
/-! DEFINITION. The sticky flags, the pass flags and the STATUS view (10_state.md R39, R40, R45; 00_scope.md R19). -/

namespace Sys2Proof.Machine

/-- The sticky flags by name (10_state.md R39). -/
inductive StickyFlag where
  | ovf
  | cmdErr
  | dlenErr
  | lenClamp
deriving DecidableEq, Repr

/-- One sticky flag set to 1, the others unchanged. -/
def setSticky (f : StickyFlag) (g : StickyFlags) : StickyFlags :=
  match f with
  | .ovf => { g with ovf := true }
  | .cmdErr => { g with cmdErr := true }
  | .dlenErr => { g with dlenErr := true }
  | .lenClamp => { g with lenClamp := true }

/-- SetFlag (00_scope.md R19). -/
def setFlag (f : StickyFlag) (s : State) : State :=
  { s with flags := setSticky f s.flags }

/-- The effect of CLEAR with FLG = 1 (40_host_commands.md R153). -/
def clearFlags (s : State) : State :=
  { s with flags := { ovf := false, cmdErr := false, dlenErr := false, lenClamp := false } }

/-- The pass flags at the start of a pass and after a stream reset (10_state.md R40). -/
def clearPassFlags (s : State) : State :=
  { s with pass := { eval := false, candSeen := false } }

/-- EVAL set, and CAND_SEEN too when the window passes (42_scanner.md R202). -/
def notePass (passes : Bool) (p : PassFlags) : PassFlags :=
  { eval := true, candSeen := p.candSeen || passes }

/-- STATUS[4], 1 exactly when SEQ_STATE = CFG_ERROR (10_state.md R45). -/
def cfgErrBit (s : State) : Bool :=
  decide (s.seqState = .cfgError)

/-- STATUS, from bit 31 down to bit 0 (10_state.md R45). -/
def statusWord (s : State) : Word :=
  0#19 ++ BitVec.ofBool s.mode.bit ++ BitVec.ofBool s.flags.lenClamp ++ BitVec.ofBool s.flags.dlenErr ++
    BitVec.ofBool s.flags.cmdErr ++ BitVec.ofBool s.flags.ovf ++ s.cfgCause ++ BitVec.ofBool (cfgErrBit s) ++
    s.seqState.code

end Sys2Proof.Machine
end

