-- ==== Sys2Proof/Machine/Geometry.lean ====
section
/-! DEFINITION. The constants derived from the configuration (00_scope.md R8). -/

namespace Sys2Proof.Config

/-- width in bits of the convolved marker -/
def W (c : Config) : Nat := 2 * c.A

/-- payload length in bytes -/
def K (c : Config) : Nat := 2 + c.R + c.C + c.D + 4

/-- RawFrame length in bits -/
def F (c : Config) : Nat := 2 * (c.A + 8 * c.N)

/-- RawFrame length in bytes -/
def FB (c : Config) : Nat := 2 * (c.A / 8 + c.N)

/-- DecodedFrame length in bytes -/
def DB (c : Config) : Nat := c.A / 8 + c.N

/-- offset of the payload length -/
def O_LEN (_ : Config) : Nat := 0

/-- offset of the routing header -/
def O_RH (_ : Config) : Nat := 2

/-- offset of the control header -/
def O_CH (c : Config) : Nat := 2 + c.R

/-- offset of the data region -/
def O_DATA (c : Config) : Nat := 2 + c.R + c.C

/-- offset of the checksum -/
def O_CRC (c : Config) : Nat := c.K - 4

end Sys2Proof.Config
end

