-- ==== Sys2Proof/Machine/Operands.lean ====
section
/-! DEFINITION. The operand forms of the commands (30_encoding.md R102) and the register map of READ_REG
(10_state.md R49). -/

namespace Sys2Proof.Machine

/-- `n = NM1 + 1` (30_encoding.md R102). -/
def pushCount (nm1 : BitVec 4) : Nat :=
  nm1.toNat + 1

/-- `DATA[15], DATA[14], …, DATA[16-n]`, in that order; the other bits are ignored (30_encoding.md R102). -/
def pushedBits (nm1 : BitVec 4) (data : BitVec 16) : Bits :=
  (List.range (pushCount nm1)).map (fun k => data.getLsbD (15 - k))

/-- `BUFLEN - OFFSET`, the unconsumed bits. -/
def remaining (s : State) : Nat :=
  s.buflen.toNat - s.offset.toNat

/-- BUF_FREE (20_memory.md R75). -/
def bufFree (c : Config) (s : State) : Nat :=
  c.BUF_CAP - remaining s

/-- A view as a 32-bit register: `zext_32` of a value that fits, a free value otherwise (10_state.md R49; log entry 11). -/
def wideView (c : Config) (v : Nat) : Word :=
  if v < 2 ^ 32 then BitVec.ofNat 32 v else c.overwide v

/-- A one-bit register read, in bit 0 (10_state.md R49). -/
def bitView (b : Bool) : Word :=
  BitVec.zeroExtend 32 (BitVec.ofBool b)

/-- KEY as an operand: the key it holds, a free value while it holds none (10_state.md R37; log entry 9). -/
def heldKey (c : Config) (s : State) : Block :=
  s.key.getD c.unheldKey

/-- The register at a READ_REG address; none for an unmapped address (10_state.md R49). -/
def registerAt (c : Config) (addr : BitVec 8) (s : State) : Option Word :=
  match addr.toNat with
  | 0x00 => some (statusWord s)
  | 0x01 => some s.offset
  | 0x02 => some s.buflen
  | 0x03 => some (bitView s.prevBit)
  | 0x04 => some s.counters.ok
  | 0x05 => some s.counters.sync
  | 0x06 => some s.counters.inner
  | 0x07 => some s.counters.outer
  | 0x08 => some s.counters.integ
  | 0x09 => some s.latches.icorr
  | 0x0A => some s.latches.ocorr
  | 0x0B => some s.latches.cscore
  | 0x0C => some s.latches.dscore
  | 0x0D => some (wideView c (bufFree c s))
  | 0x0E => some (wideView c c.F)
  | _ => none

end Sys2Proof.Machine
end

