-- ==== Sys2Proof/Machine/Ops.lean ====
section
/-! DEFINITION. The named operations every command and step is written with: the stream buffer, the FIFOs, stream
reset, the start and end of attempts and passes, and the two shared error entries. -/

namespace Sys2Proof.Machine

/-! ### The stream buffer -/

/-- The one form of the stream buffer: it holds exactly the bits of index `0 .. BUFLEN-1` (10_state.md R44, R35), so
equal buffers are equal lists (log entry 7). -/
abbrev Memory.wf (s : State) : Prop :=
  s.buf.length = s.buflen.toNat

/-- BufRead, with a fault outside its bound (20_memory.md R72). -/
def bufRead (s : State) (i n : Nat) : Except Fault Bits :=
  if s.offset.toNat ≤ i ∧ i + n ≤ s.buflen.toNat then .ok (slice s.buf i n) else .error .bufReadOutOfRange

/-- BufAppend (20_memory.md R73). -/
def bufAppend (b : Bool) (s : State) : State :=
  { s with buf := s.buf ++ [b], buflen := s.buflen + 1 }

/-- One raw bit of a push, through the differential decoder into BUF (40_host_commands.md R141). -/
def pushBit (c : Config) (r : Bool) (s : State) : State :=
  let one := diffDecode c s.mode s.prevBit r
  bufAppend one.1 { s with prevBit := one.2 }

/-- The bits of a push, in order. -/
def pushRaw (c : Config) : Bits → State → State
  | [], s => s
  | r :: rest, s => pushRaw c rest (pushBit c r s)

/-- Whether `n` more bits fit the capacity and the 32-bit BUFLEN (40_host_commands.md R141). -/
def pushFits (c : Config) (n : Nat) (s : State) : Bool :=
  decide (remaining s + n ≤ c.BUF_CAP) && decide (s.buflen.toNat + n ≤ 2 ^ 32 - 1)

/-- StreamReset (40_host_commands.md R149). -/
def streamReset (s : State) : State :=
  clearPassFlags { s with buf := [], buflen := 0, offset := 0, prevBit := false }

/-! ### The output FIFOs -/

/-- Emit (00_scope.md R18). -/
def emit (r : Record) (s : State) : State :=
  { s with results := s.results ++ [r] }

/-- Respond (00_scope.md R18). -/
def respond (w : Word) (s : State) : State :=
  { s with responses := s.responses ++ [w] }

/-- CONSUMER removes the head of the RESULT FIFO, if there is one (10_state.md R47). -/
def takeResult (s : State) : State :=
  { s with results := s.results.drop 1 }

/-- CONSUMER removes the head of the RESPONSE FIFO, if there is one (10_state.md R48). -/
def takeResponse (s : State) : State :=
  { s with responses := s.responses.drop 1 }

/-- The numbers of the result codes (30_encoding.md R116). -/
def resultNumber : ResultCode → BitVec 4
  | .ok => 0
  | .syncNotFound => 1
  | .innerDecodeFailure => 2
  | .outerDecodeFailure => 3
  | .integrityMismatch => 4
  | .decryptionUnavailable => 5

/-- Record, built from the state at the moment of emission (46_resync_sequencer.md R286). -/
def recordOf (code : ResultCode) (sub : BitVec 4) (payload : Bytes) (s : State) : Record where
  code := code
  sub := sub
  mode := s.mode
  offset := s.offset
  cscore := s.latches.cscore
  dscore := s.latches.dscore
  icorr := s.latches.icorr
  ocorr := s.latches.ocorr
  payload := payload

/-- Payload word `j` of a serialized record; a byte at or past the end contributes 0 (30_encoding.md R115). -/
def payloadWord (payload : Bytes) (j : Nat) : Word :=
  placed (payload.getD (4 * j) 0) 0 ||| placed (payload.getD (4 * j + 1) 0) 8 |||
    placed (payload.getD (4 * j + 2) 0) 16 ||| placed (payload.getD (4 * j + 3) 0) 24

/-- The serialized record (30_encoding.md R115). -/
def recordWords (r : Record) : List Word :=
  [placed (resultNumber r.code) 28 ||| placed r.sub 24 ||| placed (BitVec.ofBool r.mode.bit) 23 |||
      placed (BitVec.ofNat 16 r.payload.length) 0,
    r.offset, r.cscore, r.dscore, r.icorr, r.ocorr] ++
    (List.range ((r.payload.length + 3) / 4)).map (payloadWord r.payload)

/-! ### Counters and latches -/

/-- One event counter plus 1, modulo 2^32 (10_state.md R41): the counter of the result code emitted. -/
def countResult (code : ResultCode) (k : Counters) : Counters :=
  match code with
  | .ok => { k with ok := k.ok + 1 }
  | .syncNotFound => { k with sync := k.sync + 1 }
  | .innerDecodeFailure => { k with inner := k.inner + 1 }
  | .outerDecodeFailure => { k with outer := k.outer + 1 }
  | .integrityMismatch => { k with integ := k.integ + 1 }
  | .decryptionUnavailable => k

/-- The record of an outcome emitted and its counter advanced. -/
def report (code : ResultCode) (sub : BitVec 4) (payload : Bytes) (s : State) : State :=
  let t := emit (recordOf code sub payload s) s
  { t with counters := countResult code t.counters }

/-- The effect of CLEAR with CNT = 1 (40_host_commands.md R153). -/
def clearCounts (s : State) : State :=
  { s with
    counters := { ok := 0, sync := 0, inner := 0, outer := 0, integ := 0 }
    latches := { cscore := 0, dscore := 0, icorr := 0, ocorr := 0 } }

/-! ### Attempts and passes -/

/-- AttemptStart (46_resync_sequencer.md R282). -/
def attemptStart (s : State) : State :=
  { s with
    latches := { cscore := s.latches.cscore, dscore := 0, icorr := 0, ocorr := 0 }
    seqState := .inner }

/-- DatagramStart (46_resync_sequencer.md R287). -/
def datagramStart (s : State) : State :=
  attemptStart { s with latches := { s.latches with cscore := 0 } }

/-- DatagramEnd (46_resync_sequencer.md R288). -/
def datagramEnd (s : State) : State :=
  { streamReset s with seqState := .idle }

/-- The offset advanced by `n` bits and the scan resumed (46_resync_sequencer.md R284, R285). -/
def advance (n : Nat) (s : State) : State :=
  { s with offset := s.offset + BitVec.ofNat 32 n, seqState := .scanning }

/-- The end of an attempt: an advance in streaming mode, a stream reset in datagram mode. -/
def finish (n : Nat) (s : State) : State :=
  match s.mode with
  | .streaming => advance n s
  | .datagram => datagramEnd s

/-- FinishFail (46_resync_sequencer.md R284). -/
def finishFail (s : State) : State :=
  finish 1 s

/-- FinishSuccess (46_resync_sequencer.md R285). -/
def finishSuccess (c : Config) (s : State) : State :=
  finish (c.F - c.V) s

/-- PassEnd (46_resync_sequencer.md R283). -/
def passEnd (s : State) : State :=
  let t := if s.pass.eval && !s.pass.candSeen then report .syncNotFound 0 [] s else s
  { t with seqState := .idle }

/-! ### The two shared error entries -/

/-- Entry of a frame-level error of an attempt: one record, one counter, and the end of the attempt
(60_exceptions.md R321, R327). The core has no traps and no return from one (00_scope.md R19, R328). -/
def frameError (code : ResultCode) (sub : BitVec 4) (ending : State → State) (s : State) : State :=
  ending (report code sub [] s)

/-- A refused command: CMD_ERR and nothing else (40_host_commands.md R140, 60_exceptions.md R322). -/
def refuseCommand (s : State) : State :=
  setFlag .cmdErr s

/-- A command that CFG_ERROR refuses (40_host_commands.md R155). -/
def unlessCfgError (act : State → State) (s : State) : State :=
  if s.seqState = .cfgError then refuseCommand s else act s

end Sys2Proof.Machine
end

