-- ==== Sys2Proof/Machine/Commands.lean ====
section
/-! DEFINITION. The host commands (40_host_commands.md): for each, its effect under a configuration and its meaning
on the machine. A command is executed only when accepted; the hold of R154 stands in Machine/Port.lean. -/

namespace Sys2Proof.Machine

/-! ### Effects -/

/-- PUSH_BITS (40_host_commands.md R141), and the drop of R142 when the bits do not fit. -/
def pushBitsEffect (c : Config) (nm1 : BitVec 4) (data : BitVec 16) (s : State) : State :=
  if pushFits c (pushCount nm1) s then pushRaw c (pushedBits nm1 data) s else setFlag .ovf s

/-- SCAN (40_host_commands.md R143). -/
def scanEffect (s : State) : State :=
  match s.mode with
  | .datagram => refuseCommand s
  | .streaming => { clearPassFlags s with seqState := .scanning }

/-- DGRAM (40_host_commands.md R144). -/
def dgramEffect (c : Config) (s : State) : State :=
  match s.mode with
  | .streaming => refuseCommand s
  | .datagram => if s.buflen.toNat = c.F then datagramStart s else streamReset (setFlag .dlenErr s)

/-- SET_MODE (40_host_commands.md R151). -/
def setModeEffect (m : Mode) (s : State) : State :=
  streamReset { s with mode := m }

/-- READ_REG (40_host_commands.md R157); an unmapped address responds 0 and sets CMD_ERR (R156). -/
def readRegEffect (c : Config) (addr : BitVec 8) (s : State) : State :=
  match registerAt c addr s with
  | some w => respond w s
  | none => refuseCommand (respond 0 s)

/-- CLEAR (40_host_commands.md R153). -/
def clearEffect (cnt flg : Bool) (s : State) : State :=
  let t := if flg then clearFlags s else s
  if cnt then clearCounts t else t

/-! ### Meanings -/

/-- NOP (40_host_commands.md R145). -/
def execNop (s : State) : Host.Outcome State Fault Refusal :=
  .next s

/-- PUSH_BITS (40_host_commands.md R141, R142, R155). -/
def execPushBits (nm1 : BitVec 4) (data : BitVec 16) (s : State) : Host.Outcome State Fault Refusal :=
  .next (unlessCfgError (pushBitsEffect Config.machine nm1 data) s)

/-- SCAN (40_host_commands.md R143, R155). -/
def execScan (s : State) : Host.Outcome State Fault Refusal :=
  .next (unlessCfgError scanEffect s)

/-- DGRAM (40_host_commands.md R144, R155). -/
def execDgram (s : State) : Host.Outcome State Fault Refusal :=
  .next (unlessCfgError (dgramEffect Config.machine) s)

/-- RESET_STREAM (40_host_commands.md R150, R155). -/
def execResetStream (s : State) : Host.Outcome State Fault Refusal :=
  .next (unlessCfgError streamReset s)

/-- SET_MODE (40_host_commands.md R151, R155). -/
def execSetMode (m : Mode) (s : State) : Host.Outcome State Fault Refusal :=
  .next (unlessCfgError (setModeEffect m) s)

/-- READ_REG, accepted in CFG_ERROR too (40_host_commands.md R157). -/
def execReadReg (addr : BitVec 8) (s : State) : Host.Outcome State Fault Refusal :=
  .next (readRegEffect Config.machine addr s)

/-- CLEAR (40_host_commands.md R153, R155). -/
def execClear (cnt flg : Bool) (s : State) : Host.Outcome State Fault Refusal :=
  .next (unlessCfgError (clearEffect cnt flg) s)

/-- A reserved opcode, in CFG_ERROR too (40_host_commands.md R158). The operands are ignored. -/
def execReservedOp (_op : BitVec 4) (_ignored : BitVec 28) (s : State) : Host.Outcome State Fault Refusal :=
  .next (refuseCommand s)

end Sys2Proof.Machine
end

