-- ==== Sys2Proof/Machine/Integrity.lean ====
section
/-! DEFINITION. The frame parser, CRC-32 and the INTEGRITY step (44_parser_integrity.md). -/

namespace Sys2Proof.Machine

/-- The fields of the Payload (44_parser_integrity.md R240). -/
structure Parsed where
  len : Nat
  routing : Bytes
  control : Bytes
  data : Bytes
  checksum : Nat
deriving DecidableEq, Repr

/-- Parse (44_parser_integrity.md R240). -/
def parse (c : Config) (data : Bytes) : Parsed where
  len := le16 data c.O_LEN
  routing := slice data c.O_RH c.R
  control := slice data c.O_CH c.C
  data := slice data c.O_DATA c.D
  checksum := le32 data c.O_CRC

/-- One bit of the CRC (44_parser_integrity.md R242). -/
def crcBit (crc : Word) : Word :=
  if crc.getLsbD 0 then (crc >>> 1) ^^^ 0xEDB88320#32 else crc >>> 1

/-- Eight bits of the CRC. -/
def crcBits (crc : Word) : Word :=
  crcBit (crcBit (crcBit (crcBit (crcBit (crcBit (crcBit (crcBit crc)))))))

/-- One byte of the CRC. -/
def crcByte (crc : Word) (x : Byte) : Word :=
  crcBits (crc ^^^ BitVec.zeroExtend 32 x)

/-- CRC32 (44_parser_integrity.md R242). -/
def crc32 (b : Bytes) : Word :=
  b.foldl crcByte 0xFFFFFFFF#32 ^^^ 0xFFFFFFFF#32

/-- The range the CRC covers, `DATA[2 .. K-4)` (44_parser_integrity.md R243). -/
def crcRange (c : Config) (data : Bytes) : Bytes :=
  slice data 2 (c.R + c.C + c.D)

/-- Whether the computed and the stored checksum agree (44_parser_integrity.md R244). -/
def checksumMatches (c : Config) (data : Bytes) : Bool :=
  (crc32 (crcRange c data)).toNat == (parse c data).checksum

/-- INTEGRITY on the Payload (44_parser_integrity.md R244, R245). -/
def integrityEffect (c : Config) (data : Bytes) (s : State) : State :=
  if checksumMatches c data then { s with seqState := .decrypt }
  else frameError .integrityMismatch 0 (finishSuccess c) s

/-- INTEGRITY (44_parser_integrity.md R244); a read of DATA unwritten is the fault of 10_state.md R43 and
93_implementation_defined.md U23. -/
def integrityStep (c : Config) (s : State) : Host.Outcome State Fault Refusal :=
  match s.data with
  | none => .fault .unwrittenData
  | some data => .next (integrityEffect c data s)

/-- SEQ_INTEGRITY (44_parser_integrity.md R244). -/
def execSeqIntegrity (s : State) : Host.Outcome State Fault Refusal :=
  integrityStep Config.machine s

end Sys2Proof.Machine
end

