-- ==== Sys2Proof/Machine/Decryptor.lean ====
section
/-! DEFINITION. CBC decryption and the DECRYPT step (45_decryptor.md). -/

namespace Sys2Proof.Machine

/-- Cipher block `j` of a region (30_encoding.md R113, 45_decryptor.md R261). -/
def cipherBlock (ct : Bytes) (j : Nat) : Block :=
  blockOfBytes (slice ct (16 * j) 16)

/-- The blocks of a region of `d` bytes. -/
def cipherBlocks (d : Nat) (ct : Bytes) : List Block :=
  (List.range (d / 16)).map (cipherBlock ct)

/-- CBC decryption from the block before (45_decryptor.md R261). -/
def cbcDecryptFrom (c : Config) (key : Block) : Block → List Block → List Block
  | _, [] => []
  | prev, ct :: rest => (c.blockDec key ct ^^^ prev) :: cbcDecryptFrom c key ct rest

/-- CBC encryption from the block before (45_decryptor.md R266). -/
def cbcEncryptFrom (c : Config) (key : Block) : Block → List Block → List Block
  | _, [] => []
  | prev, p :: rest => c.blockEnc key (p ^^^ prev) :: cbcEncryptFrom c key (c.blockEnc key (p ^^^ prev)) rest

/-- The bytes of a block sequence. -/
def bytesOfBlocks : List Block → Bytes
  | [] => []
  | b :: rest => bytesOfBlock b ++ bytesOfBlocks rest

/-- CbcDecrypt of a `D`-byte region, with the all-zero IV (45_decryptor.md R260, R261). -/
def cbcDecrypt (c : Config) (key : Block) (ct : Bytes) : Bytes :=
  bytesOfBlocks (cbcDecryptFrom c key 0 (cipherBlocks c.D ct))

/-- CbcEncrypt of a `D`-byte region, with the all-zero IV (45_decryptor.md R266). -/
def cbcEncrypt (c : Config) (key : Block) (p : Bytes) : Bytes :=
  bytesOfBlocks (cbcEncryptFrom c key 0 (cipherBlocks c.D p))

/-- The payload of an OK record: the first `min(len, D)` decrypted bytes (45_decryptor.md R263, R264). -/
def okPayload (c : Config) (key : Block) (data : Bytes) : Bytes :=
  (cbcDecrypt c key (parse c data).data).take (min (parse c data).len c.D)

/-- DECRYPT on the Payload (45_decryptor.md R263). -/
def decryptEffect (c : Config) (key : Block) (data : Bytes) (s : State) : State :=
  let t := if c.D < (parse c data).len then setFlag .lenClamp s else s
  finishSuccess c (report .ok 0 (okPayload c key data) t)

/-- DECRYPT (45_decryptor.md R263); a read of DATA unwritten is the fault of 10_state.md R43 and
93_implementation_defined.md U23. -/
def decryptStep (c : Config) (s : State) : Host.Outcome State Fault Refusal :=
  match s.data with
  | none => .fault .unwrittenData
  | some data => .next (decryptEffect c (heldKey c s) data s)

/-- SEQ_DECRYPT (45_decryptor.md R263). -/
def execSeqDecrypt (s : State) : Host.Outcome State Fault Refusal :=
  decryptStep Config.machine s

end Sys2Proof.Machine
end

