-- ==== Sys2Proof/Machine/FecAdapter.lean ====
section
/-! DEFINITION. The INNER, DEC_ASM and OUTER steps (43_fec_adapter.md). -/

namespace Sys2Proof.Machine

/-- INNER on the bits of the RawFrame (43_fec_adapter.md R222, R223). -/
def innerEffect (c : Config) (raw : Bits) (s : State) : State :=
  match c.innerDecode (pack raw) with
  | none => frameError .innerDecodeFailure 1 finishFail s
  | some (dec, cnt) =>
    { s with
      dec := some dec
      latches := { s.latches with icorr := BitVec.ofNat 32 cnt }
      seqState := .decAsm }

/-- INNER (43_fec_adapter.md R222). -/
def innerStep (c : Config) (s : State) : Host.Outcome State Fault Refusal :=
  match bufRead s s.offset.toNat c.F with
  | .error f => .fault f
  | .ok raw => .next (innerEffect c raw s)

/-- The decoded marker, the first `A` decoded bits (43_fec_adapter.md R224). -/
def decodedMarker (c : Config) (dec : Bytes) : Nat :=
  toInt (unpack (slice dec 0 (c.A / 8)))

/-- The decoded-domain score (43_fec_adapter.md R224). -/
def decodedScore (c : Config) (dec : Bytes) : Nat :=
  matchScore c.A (decodedMarker c dec) c.ASM

/-- DEC_ASM on the DecodedFrame (43_fec_adapter.md R224, R225). -/
def decAsmEffect (c : Config) (dec : Bytes) (s : State) : State :=
  let t := { s with latches := { s.latches with dscore := BitVec.ofNat 32 (decodedScore c dec) } }
  if decodedScore c dec < c.T_D then frameError .innerDecodeFailure 2 finishFail t else { t with seqState := .outer }

/-- DEC_ASM (43_fec_adapter.md R224); a read of DEC unwritten is the fault of 10_state.md R43 and
93_implementation_defined.md U23. -/
def decAsmStep (c : Config) (s : State) : Host.Outcome State Fault Refusal :=
  match s.dec with
  | none => .fault .unwrittenDec
  | some dec => .next (decAsmEffect c dec s)

/-- The outer-code block, the marker stripped (43_fec_adapter.md R226). -/
def outerBlock (c : Config) (dec : Bytes) : Bytes :=
  slice dec (c.A / 8) c.N

/-- OUTER on the DecodedFrame (43_fec_adapter.md R226, R227). -/
def outerEffect (c : Config) (dec : Bytes) (s : State) : State :=
  match c.outerDecode (outerBlock c dec) with
  | none => frameError .outerDecodeFailure 0 finishFail s
  | some (data, cnt) =>
    { s with
      data := some data
      latches := { s.latches with ocorr := BitVec.ofNat 32 cnt }
      seqState := .integrity }

/-- OUTER (43_fec_adapter.md R226); a read of DEC unwritten is the fault of 10_state.md R43 and
93_implementation_defined.md U23. -/
def outerStep (c : Config) (s : State) : Host.Outcome State Fault Refusal :=
  match s.dec with
  | none => .fault .unwrittenDec
  | some dec => .next (outerEffect c dec s)

/-- SEQ_INNER (43_fec_adapter.md R222). -/
def execSeqInner (s : State) : Host.Outcome State Fault Refusal :=
  innerStep Config.machine s

/-- SEQ_DEC_ASM (43_fec_adapter.md R224). -/
def execSeqDecAsm (s : State) : Host.Outcome State Fault Refusal :=
  decAsmStep Config.machine s

/-- SEQ_OUTER (43_fec_adapter.md R226). -/
def execSeqOuter (s : State) : Host.Outcome State Fault Refusal :=
  outerStep Config.machine s

end Sys2Proof.Machine
end

