-- ==== Sys2Proof/Machine/Scanner.lean ====
section
/-! DEFINITION. The SCANNING step (42_scanner.md). -/

namespace Sys2Proof.Machine

/-- The score of the window at bit offset `o` (42_scanner.md R201). -/
def windowScore (c : Config) (buf : Bits) (o : Nat) : Nat :=
  matchScore c.W (toInt (slice buf o c.W)) c.CASM

/-- Whether the window at bit offset `o` passes (42_scanner.md R201). -/
def windowPasses (c : Config) (buf : Bits) (o : Nat) : Bool :=
  decide (c.T_C ≤ windowScore c buf o)

/-- The evaluation of the window at OFFSET (42_scanner.md R202, R203). Its read is inside BUF because `W ≤ F`
(20_memory.md R72). -/
def evaluateWindow (c : Config) (s : State) : State :=
  let passes := windowPasses c s.buf s.offset.toNat
  let t := { s with
    latches := { s.latches with cscore := BitVec.ofNat 32 (windowScore c s.buf s.offset.toNat) }
    pass := notePass passes s.pass }
  if passes then attemptStart t else advance 1 t

/-- SCANNING (42_scanner.md R202, R204). -/
def scanningEffect (c : Config) (s : State) : State :=
  if remaining s < c.F then passEnd s else evaluateWindow c s

/-- SEQ_SCANNING (42_scanner.md R202). -/
def execSeqScanning (s : State) : Host.Outcome State Fault Refusal :=
  .next (scanningEffect Config.machine s)

end Sys2Proof.Machine
end

