-- ==== Sys2Proof/Machine/Sequencer.lean ====
section
/-! DEFINITION. The CFG_ERROR row of the state graph (46_resync_sequencer.md R280). -/

namespace Sys2Proof.Machine

/-- SEQ_CFG_ERROR: "no step". The state stays as it is until reset (46_resync_sequencer.md R280,
70_reset_and_hazards.md R362; log entry 6); the entry to it is `resetSeqState`. -/
def execSeqCfgError (s : State) : Host.Outcome State Fault Refusal :=
  .next s

end Sys2Proof.Machine
end

