-- ==== Sys2Proof/Machine/Dispatch.lean ====
section
/-! DEFINITION. The meaning of every instruction. -/

namespace Sys2Proof.Machine

def exec (i : Instr) (s : State) : Host.Outcome State Fault Refusal :=
  match i with
  | .nop => Sys2Proof.Machine.execNop s
  | .pushBits nm1 data => Sys2Proof.Machine.execPushBits nm1 data s
  | .scan => Sys2Proof.Machine.execScan s
  | .dgram => Sys2Proof.Machine.execDgram s
  | .resetStream => Sys2Proof.Machine.execResetStream s
  | .setMode m => Sys2Proof.Machine.execSetMode m s
  | .readReg addr => Sys2Proof.Machine.execReadReg addr s
  | .clear cnt flg => Sys2Proof.Machine.execClear cnt flg s
  | .reservedOp op ignored => Sys2Proof.Machine.execReservedOp op ignored s
  | .seqScanning => Sys2Proof.Machine.execSeqScanning s
  | .seqInner => Sys2Proof.Machine.execSeqInner s
  | .seqDecAsm => Sys2Proof.Machine.execSeqDecAsm s
  | .seqOuter => Sys2Proof.Machine.execSeqOuter s
  | .seqIntegrity => Sys2Proof.Machine.execSeqIntegrity s
  | .seqDecrypt => Sys2Proof.Machine.execSeqDecrypt s
  | .seqCfgError => Sys2Proof.Machine.execSeqCfgError s

end Sys2Proof.Machine
end

