-- ==== Sys2Proof/Machine/Port.lean ====
section
/-! DEFINITION. Whose step comes next, and which instruction it runs (20_memory.md R85, 40_host_commands.md R140, R154).
The functions take the meaning of instructions as an argument, so that the machine and its copies at other
configurations share them. -/

namespace Sys2Proof.Machine

/-- HOST is enabled only in IDLE and CFG_ERROR (40_host_commands.md R154). -/
def acceptsCommands : SeqState → Bool
  | .idle => true
  | .scanning => false
  | .inner => false
  | .decAsm => false
  | .outer => false
  | .integrity => false
  | .decrypt => false
  | .cfgError => true

/-- An accepted word (40_host_commands.md R140). A word that is no command has a non-zero reserved field: CMD_ERR
(R152). The check of R155 stands in the meanings; both refusals do the same, so their order shows nowhere (R140). -/
def acceptWord (ex : Instr → State → Host.Outcome State Fault Refusal) (w : Word) (s : State) :
    Host.Outcome State Fault Refusal :=
  match decode (.command w) with
  | .ok i => ex i s
  | .error _ => .next (refuseCommand s)

/-- The step SEQ_STATE selects (46_resync_sequencer.md R280); in IDLE nothing happens (60_exceptions.md R334; log
entry 5). -/
def sequencerStep (ex : Instr → State → Host.Outcome State Fault Refusal) (s : State) :
    Host.Outcome State Fault Refusal :=
  match decode (.seq s.seqState.code) with
  | .ok i => ex i s
  | .error _ => .next s

/-- The step of HOST or SEQ. A word is consumed only where commands are accepted; elsewhere it is held
(40_host_commands.md R154). -/
def coreStep (ex : Instr → State → Host.Outcome State Fault Refusal) (s : State) : Host.Outcome State Fault Refusal :=
  match acceptsCommands s.seqState, s.port with
  | true, w :: rest => acceptWord ex w { s with port := rest }
  | _, _ => sequencerStep ex s

/-- Reset asserted by the platform (70_reset_and_hazards.md R360). What HOST has still to issue and the coming turns
are no state of the core and stay (log entry 22). -/
def platformReset (c : Config) (s : State) : State :=
  { State.resetAt c with port := s.port, turns := s.turns }

/-- One step of the agent whose turn it is (20_memory.md R85). -/
def turnStep (c : Config) (ex : Instr → State → Host.Outcome State Fault Refusal) (s : State) :
    Host.Outcome State Fault Refusal :=
  match s.turns with
  | [] => coreStep ex s
  | .core :: rest => coreStep ex { s with turns := rest }
  | .takeResult :: rest => .next (takeResult { s with turns := rest })
  | .takeResponse :: rest => .next (takeResponse { s with turns := rest })
  | .reset :: rest => .next (platformReset c { s with turns := rest })

/-- The state whose next step runs the given code: a command word at the head of the port with commands accepted, or
the SEQ_STATE that selects the step with no word to take first (log entries 17, 18). -/
def placeCode (code : Code) (s : State) : State :=
  match code with
  | .command w => { s with seqState := .idle, port := w :: s.port, turns := .core :: s.turns }
  | .seq k =>
    match SeqState.ofCode k with
    | none => s
    | some st =>
      { s with seqState := st, port := if acceptsCommands st then [] else s.port, turns := .core :: s.turns }

end Sys2Proof.Machine
end

