-- ==== Sys2Proof/Machine/Step.lean ====
section
/-! DEFINITION. The step of the machine, and the placing of an instruction where the next step takes it. -/

namespace Sys2Proof.Machine

/-- One atomic step of one agent (20_memory.md R81, R85). -/
def step (s : State) : Host.Outcome State Fault Refusal :=
  turnStep Config.machine exec s

/-- `s` with the row's word placed where the next step takes it (log entries 17, 18). -/
def State.withFetchWord (s : State) (nbits w : Nat) : State :=
  placeCode (Code.ofTable nbits w) s

end Sys2Proof.Machine
end

