-- ==== Sys2Proof/Machine/Assembler.lean ====
section
/-! DEFINITION. The assembler syntax and the pseudo-instructions (30_encoding.md R106, R107). The spec leaves the
white space of a line and the case of its letters open (log entry 25). -/

namespace Sys2Proof.Machine

/-- `PUSH_BITS n, v`: the `n`-bit value `v`, first bit most significant (30_encoding.md R106). -/
def asmPushBits (n v : Nat) : Option Instr :=
  if 1 ≤ n ∧ n ≤ 16 ∧ v < 2 ^ n then
    some (.pushBits (BitVec.ofNat 4 (n - 1)) (BitVec.ofNat 16 (v * 2 ^ (16 - n))))
  else none

/-- The push of a sequence of 1 to 16 bits. -/
def pushOfBits (s : Bits) : Instr :=
  .pushBits (BitVec.ofNat 4 (s.length - 1)) (BitVec.ofNat 16 (toInt s * 2 ^ (16 - s.length)))

/-- PUSH_BYTE (30_encoding.md R107). -/
def pushByte (b : Byte) : Instr :=
  .pushBits 7#4 (b ++ 0#8)

/-- PUSH_SEQ (30_encoding.md R107). -/
def pushSeq (s : Bits) : List Instr :=
  let whole := s.length / 16
  (List.range whole).map (fun j => pushOfBits (slice s (16 * j) 16)) ++
    (if s.length % 16 = 0 then [] else [pushOfBits (s.drop (16 * whole))])

/-- PUSH_FRAME_BYTES (30_encoding.md R107). -/
def pushFrameBytes (b : Bytes) : List Instr :=
  pushSeq (unpack b)

/-- READ_ALL (30_encoding.md R107). -/
def readAll : List Instr :=
  (List.range 15).map (fun a => .readReg (BitVec.ofNat 8 a))

/-- The value of a non-empty run of digits of a base, after what was read before it. -/
def digitsValue (base : Nat) : Nat → List Char → Option Nat
  | acc, [] => some acc
  | acc, ch :: rest =>
    match hexDigit ch with
    | some d => if d < base then digitsValue base (base * acc + d) rest else none
    | none => none

/-- A number: decimal, `0x` hexadecimal or `0b` binary (30_encoding.md R106). -/
def numberOf (t : List Char) : Option Nat :=
  match t with
  | [] => none
  | '0' :: 'x' :: d :: rest => digitsValue 16 0 (d :: rest)
  | '0' :: 'b' :: d :: rest => digitsValue 2 0 (d :: rest)
  | d :: rest => digitsValue 10 0 (d :: rest)

def numbersOf : List (List Char) → Option (List Nat)
  | [] => some []
  | t :: rest =>
    match numberOf (trimBoth isKeySpace t), numbersOf rest with
    | some n, some ns => some (n :: ns)
    | _, _ => none

/-- The mnemonics of 30_encoding.md R106 and R107 whose operands are numbers. -/
inductive Mnemonic where
  | nop
  | pushBits
  | scan
  | dgram
  | resetStream
  | setMode
  | readReg
  | clear
  | pushByte
  | readAll
deriving DecidableEq, Repr

def mnemonicOf (t : List Char) : Option Mnemonic :=
  if t = ['N', 'O', 'P'] then some .nop
  else if t = ['P', 'U', 'S', 'H', '_', 'B', 'I', 'T', 'S'] then some .pushBits
  else if t = ['S', 'C', 'A', 'N'] then some .scan
  else if t = ['D', 'G', 'R', 'A', 'M'] then some .dgram
  else if t = ['R', 'E', 'S', 'E', 'T', '_', 'S', 'T', 'R', 'E', 'A', 'M'] then some .resetStream
  else if t = ['S', 'E', 'T', '_', 'M', 'O', 'D', 'E'] then some .setMode
  else if t = ['R', 'E', 'A', 'D', '_', 'R', 'E', 'G'] then some .readReg
  else if t = ['C', 'L', 'E', 'A', 'R'] then some .clear
  else if t = ['P', 'U', 'S', 'H', '_', 'B', 'Y', 'T', 'E'] then some .pushByte
  else if t = ['R', 'E', 'A', 'D', '_', 'A', 'L', 'L'] then some .readAll
  else none

/-- The instructions of a mnemonic and its operands; none when the count or a range is wrong. -/
def assembleOp (m : Mnemonic) (operands : List Nat) : Option (List Instr) :=
  match m, operands with
  | .nop, [] => some [.nop]
  | .pushBits, [n, v] => (asmPushBits n v).map (fun i => [i])
  | .scan, [] => some [.scan]
  | .dgram, [] => some [.dgram]
  | .resetStream, [] => some [.resetStream]
  | .setMode, [v] => if v < 2 then some [.setMode (.ofBit (v == 1))] else none
  | .readReg, [a] => if a < 256 then some [.readReg (BitVec.ofNat 8 a)] else none
  | .clear, [flg, cnt] => if flg < 2 ∧ cnt < 2 then some [.clear (cnt == 1) (flg == 1)] else none
  | .pushByte, [b] => if b < 256 then some [pushByte (BitVec.ofNat 8 b)] else none
  | .readAll, [] => some readAll
  | _, _ => none

/-- One line: a mnemonic, then comma-separated operands, with `;` starting a comment (30_encoding.md R106). An empty
line gives nothing; a line that is wrong gives none. -/
def assembleLine (line : List Char) : Option (List Instr) :=
  let t := trimBoth isKeySpace (line.takeWhile (fun ch => ch ≠ ';'))
  if t = [] then some []
  else
    let operands := trimBoth isKeySpace (t.dropWhile (fun ch => !isKeySpace ch))
    match mnemonicOf (t.takeWhile (fun ch => !isKeySpace ch)),
      numbersOf (if operands = [] then [] else splitAtChar ',' operands) with
    | some m, some ns => assembleOp m ns
    | _, _ => none

end Sys2Proof.Machine
end

