-- ==== Sys2Proof/Machine/AtConfig.lean ====
section
/-! DEFINITION. The same machine at any given configuration ("the model takes it as an argument", 00_scope.md R6), and
the refusal of an illegal one (R9). `exec` and `step` are these at `Config.machine`. -/

namespace Sys2Proof.Machine

/-- `exec` at configuration `c`. -/
def execAt (c : Config) : Instr → State → Host.Outcome State Fault Refusal
  | .nop, s => execNop s
  | .pushBits nm1 data, s => .next (unlessCfgError (pushBitsEffect c nm1 data) s)
  | .scan, s => execScan s
  | .dgram, s => .next (unlessCfgError (dgramEffect c) s)
  | .resetStream, s => execResetStream s
  | .setMode m, s => execSetMode m s
  | .readReg addr, s => .next (readRegEffect c addr s)
  | .clear cnt flg, s => execClear cnt flg s
  | .reservedOp op ignored, s => execReservedOp op ignored s
  | .seqScanning, s => .next (scanningEffect c s)
  | .seqInner, s => innerStep c s
  | .seqDecAsm, s => decAsmStep c s
  | .seqOuter, s => outerStep c s
  | .seqIntegrity, s => integrityStep c s
  | .seqDecrypt, s => decryptStep c s
  | .seqCfgError, s => execSeqCfgError s

/-- `step` at configuration `c`. -/
def stepAt (c : Config) (s : State) : Host.Outcome State Fault Refusal :=
  turnStep c (execAt c) s

/-! ### The modelling boundary -/

/-- Whether every number of `n` bits passes, by trying each. -/
def everyNumber : Nat → (Nat → Bool) → Bool
  | 0, p => p 0
  | n + 1, p => everyNumber n (fun x => p (2 * x)) && everyNumber n (fun x => p (2 * x + 1))

/-- The `n` bytes of the number `x`, the least significant first. Every byte sequence of length `n` is one of these for
an `x` of `8 * n` bits. -/
def bytesOfNumber : Nat → Nat → Bytes
  | 0, _ => []
  | n + 1, x => BitVec.ofNat 8 x :: bytesOfNumber n (x / 256)

/-- Whether every success of a codec binding on `input` bytes returns `output` bytes (43_fec_adapter.md R220, R221),
by trying every input. -/
def keepsLength (codec : Bytes → Option (Bytes × Nat)) (input output : Nat) : Bool :=
  everyNumber (8 * input) fun x => (codec (bytesOfNumber input x)).all fun r => r.1.length == output

/-- Whether BLOCK_DEC inverts BLOCK_ENC under every key (45_decryptor.md R262), by trying every key and block. -/
def inverts (dec enc : Block → Block → Block) : Bool :=
  everyNumber 128 fun k => everyNumber 128 fun p =>
    dec (BitVec.ofNat 128 k) (enc (BitVec.ofNat 128 k) (BitVec.ofNat 128 p)) == BitVec.ofNat 128 p

/-- `Config.Legal` as a check: the numbers of 00_scope.md R7 and the contracts of the codecs and of the cipher
(`legalCheck_iff` in Laws/Ops.lean). -/
def legalCheck (c : Config) : Bool :=
  c.geometryOk && keepsLength c.innerDecode c.FB c.DB && keepsLength c.outerDecode c.N c.K &&
    inverts c.blockDec c.blockEnc

/-- The modelling boundary: a configuration that breaks a constraint of 00_scope.md R7, a codec binding of another
output length among them (43_fec_adapter.md R220, R221), is refused and has no reset state (00_scope.md R9, R19;
70_reset_and_hazards.md R364; U4, U24). -/
def boot (c : Config) : Host.Outcome State Fault Refusal :=
  if legalCheck c then .next (State.resetAt c) else .refused .illegalConfiguration

end Sys2Proof.Machine
end

