-- ==== Sys2Proof/Safety.lean ====
section
/-! DEFINITION. What a sound state and a safe run are: the invariant of the core, the legal records, and runs of the
core's own steps. -/

namespace Sys2Proof.Machine

/-- The states in which an attempt runs, INNER to DECRYPT (10_state.md R34). -/
def attempting : SeqState → Bool
  | .idle => false
  | .scanning => false
  | .inner => true
  | .decAsm => true
  | .outer => true
  | .integrity => true
  | .decrypt => true
  | .cfgError => false

/-- The code and sub-cause pairs of 60_exceptions.md R321 and the OK record (30_encoding.md R116, R117). -/
def legalOutcome (code : ResultCode) (sub : BitVec 4) : Bool :=
  match code with
  | .ok => sub == 0
  | .syncNotFound => sub == 0
  | .innerDecodeFailure => sub == 1 || sub == 2
  | .outerDecodeFailure => sub == 0
  | .integrityMismatch => sub == 0
  | .decryptionUnavailable => false

/-- What every record of the RESULT FIFO satisfies (30_encoding.md R114, R116, R117; 46_resync_sequencer.md R287):
a legal code and sub-cause, at most `D` payload bytes, no payload unless OK, offset and convolved score 0 in datagram
mode. -/
structure LegalRecord (c : Config) (r : Record) : Prop where
  outcome : legalOutcome r.code r.sub = true
  length : r.payload.length ≤ c.D
  empty : r.code ≠ .ok → r.payload = []
  datagramOffset : r.mode = .datagram → r.offset = 0
  datagramScore : r.mode = .datagram → r.cscore = 0

/-- A frame at bit offset `o` that every check of an attempt passes: the scanner, the inner codec, the decoded marker,
the outer codec and the CRC (46_resync_sequencer.md R280). -/
def ValidFrame (c : Config) (buf : Bits) (o : Nat) : Prop :=
  windowPasses c buf o = true ∧
    ∃ dec icorr data ocorr, c.innerDecode (pack (slice buf o c.F)) = some (dec, icorr) ∧
      c.T_D ≤ decodedScore c dec ∧ c.outerDecode (outerBlock c dec) = some (data, ocorr) ∧
      checksumMatches c data = true

/-- A latch that holds a value of `n` bytes. -/
def holdsBytes (o : Option Bytes) (n : Nat) : Prop :=
  ∃ b, o = some b ∧ b.length = n

/-- The invariant of the core. Each field names the rule it states. -/
structure Inv (c : Config) (s : State) : Prop where
  /-- BUF holds exactly BUFLEN bits (20_memory.md R73) -/
  bufForm : Memory.wf s
  /-- `OFFSET ≤ BUFLEN` (20_memory.md R74) -/
  offsetBound : s.offset.toNat ≤ s.buflen.toNat
  /-- `BUFLEN - OFFSET ≤ BUF_CAP` (20_memory.md R75) -/
  capacity : s.buflen.toNat - s.offset.toNat ≤ c.BUF_CAP
  /-- a candidate under decode is a whole frame (42_scanner.md R204) -/
  frameInside : attempting s.seqState = true → s.offset.toNat + c.F ≤ s.buflen.toNat
  /-- CFG_ERROR exactly when a cause is recorded (10_state.md R38) -/
  cause : s.seqState = .cfgError ↔ s.cfgCause ≠ 0
  /-- KEY has a value outside CFG_ERROR (10_state.md R37) -/
  keyHeld : s.seqState ≠ .cfgError → s.key ≠ none
  /-- DEC is written before DEC_ASM and OUTER (10_state.md R43) -/
  decHeld : s.seqState = .decAsm ∨ s.seqState = .outer → holdsBytes s.dec c.DB
  /-- DATA is written before INTEGRITY and DECRYPT (10_state.md R43) -/
  dataHeld : s.seqState = .integrity ∨ s.seqState = .decrypt → holdsBytes s.data c.K
  /-- no offset and no scan in datagram mode (46_resync_sequencer.md R288, 42_scanner.md R206) -/
  datagramOffset : s.mode = .datagram → s.offset = 0
  datagramScan : s.mode = .datagram → s.seqState ≠ .scanning
  /-- a datagram attempt has convolved score 0 (46_resync_sequencer.md R287) -/
  datagramScore : s.mode = .datagram → attempting s.seqState = true → s.latches.cscore = 0
  /-- undecoded datagram bits leave PREV_BIT alone (41_diff_decoder.md R180) -/
  datagramPrev : s.mode = .datagram → c.dgramDiff = false → s.prevBit = false
  /-- a stage the attempt has not reached reads 0 (10_state.md R42) -/
  innerLatches : s.seqState = .inner → s.latches.icorr = 0 ∧ s.latches.dscore = 0 ∧ s.latches.ocorr = 0
  decAsmLatches : s.seqState = .decAsm → s.latches.dscore = 0 ∧ s.latches.ocorr = 0
  outerLatches : s.seqState = .outer → s.latches.ocorr = 0
  /-- a candidate was evaluated (10_state.md R40) -/
  passFlags : s.pass.candSeen = true → s.pass.eval = true
  streamingAttempt : s.mode = .streaming → attempting s.seqState = true → s.pass.candSeen = true
  /-- every record waiting is legal (30_encoding.md R116) -/
  records : ∀ r ∈ s.results, LegalRecord c r
  /-- CFG_CAUSE 4 to 7 is never written (10_state.md R38) -/
  causeCode : s.cfgCause.toNat ≤ 3

/-- HOST has nothing to issue and the core waits for it (70_reset_and_hazards.md R389). -/
def quiescent (s : State) : Prop :=
  acceptsCommands s.seqState = true ∧ s.port = []

/-- `k` steps at configuration `c` all answer a next state, and the last is `t`. -/
def runsTo (c : Config) : Nat → State → State → Prop
  | 0, s, t => s = t
  | k + 1, s, t => ∃ u, stepAt c s = .next u ∧ runsTo c k u t

/-- The bound on the steps of a pass (46_resync_sequencer.md R289), `S = BUFLEN - OFFSET`. -/
def passBound (c : Config) (s : State) : Nat :=
  6 * (remaining s + 1 - c.F) + 1

/-- The next step is HOST's or SEQ's. -/
def coreTurn (s : State) : Bool :=
  match s.turns with
  | [] => true
  | .core :: _ => true
  | .takeResult :: _ => false
  | .takeResponse :: _ => false
  | .reset :: _ => false

/-- The state with the turn taken. -/
def afterTurn (s : State) : State :=
  { s with turns := s.turns.drop 1 }

/-- The part of the state the core itself owns, without the lists of the agents outside it. -/
def coreOf (s : State) : State :=
  { s with port := [], turns := [] }

/-- An outcome with its next state changed. -/
def mapNext (f : State → State) : Host.Outcome State Fault Refusal → Host.Outcome State Fault Refusal
  | .next s => .next (f s)
  | .fault r => .fault r
  | .refused r => .refused r

/-- The state with other contents waiting in the two output FIFOs. -/
def withFifos (results : List Record) (responses : List Word) (s : State) : State :=
  { s with results := results, responses := responses }

/-- The raw bits a command appends to the stream: those of a push, none otherwise (20_memory.md R73). -/
def rawBitsOf : Instr → Bits
  | .nop => []
  | .pushBits nm1 data => pushedBits nm1 data
  | .scan => []
  | .dgram => []
  | .resetStream => []
  | .setMode _ => []
  | .readReg _ => []
  | .clear _ _ => []
  | .reservedOp _ _ => []
  | .seqScanning => []
  | .seqInner => []
  | .seqDecAsm => []
  | .seqOuter => []
  | .seqIntegrity => []
  | .seqDecrypt => []
  | .seqCfgError => []

end Sys2Proof.Machine
end

