-- ==== Sys2Proof/Certificates/Slice0/Obligations.lean ====
section
/-! DEFINITION. The statements for the provers. `Claims` holds the words they share, written out field by field. -/

namespace Sys2Proof.Claims

open Sys2Proof.Machine

/-- The record of 46_resync_sequencer.md R286, field by field. -/
def recordAt (code : ResultCode) (sub : BitVec 4) (payload : Bytes) (s : State) : Record where
  code := code
  sub := sub
  mode := s.mode
  offset := s.offset
  cscore := s.latches.cscore
  dscore := s.latches.dscore
  icorr := s.latches.icorr
  ocorr := s.latches.ocorr
  payload := payload

/-- The stream after 40_host_commands.md R149. -/
def emptied (s : State) : State :=
  { s with buf := [], buflen := 0, offset := 0, prevBit := false, pass := { eval := false, candSeen := false } }

/-- The end of an attempt that advances by `n` bits (46_resync_sequencer.md R284, R285, R288). -/
def attemptEnded (n : Nat) (s : State) : State :=
  match s.mode with
  | .streaming => { s with offset := s.offset + BitVec.ofNat 32 n, seqState := .scanning }
  | .datagram => { emptied s with seqState := .idle }

/-- CMD_ERR set and nothing else (00_scope.md R19). -/
def cmdErrSet (s : State) : State :=
  { s with flags := { s.flags with cmdErr := true } }

/-- The bits a push appends (40_host_commands.md R141, 41_diff_decoder.md R180): bit `k` of the push is `DATA[15-k]`,
exclusive-ored with the raw bit before it where differential decoding applies. -/
def pushedDecoded (diff prev : Bool) (nm1 : BitVec 4) (data : BitVec 16) : Bits :=
  (List.range (nm1.toNat + 1)).map (fun k =>
    if diff then data.getLsbD (15 - k) ^^ (if k = 0 then prev else data.getLsbD (16 - k)) else data.getLsbD (15 - k))

/-- Where differential decoding applies (41_diff_decoder.md R180). -/
def diffOn (c : Config) (s : State) : Bool :=
  decide (s.mode = .streaming) || c.dgramDiff

/-- The transitions of the table of 46_resync_sequencer.md R280, with the staying of IDLE and CFG_ERROR. -/
def edge : SeqState → SeqState → Bool
  | .idle, b => b == .idle || b == .scanning || b == .inner
  | .scanning, b => b == .idle || b == .scanning || b == .inner
  | .inner, b => b == .decAsm || b == .scanning || b == .idle
  | .decAsm, b => b == .outer || b == .scanning || b == .idle
  | .outer, b => b == .integrity || b == .scanning || b == .idle
  | .integrity, b => b == .decrypt || b == .scanning || b == .idle
  | .decrypt, b => b == .scanning || b == .idle
  | .cfgError, b => b == .cfgError

/-- The steps of an attempt (46_resync_sequencer.md R280). -/
def attemptStep (i : Instr) : Prop :=
  i = .seqInner ∨ i = .seqDecAsm ∨ i = .seqOuter ∨ i = .seqIntegrity ∨ i = .seqDecrypt

/-- The instructions that have a stream reset among their effects (10_state.md R35; 40_host_commands.md R144, R150,
R151; 46_resync_sequencer.md R288). -/
def canEmptyStream (i : Instr) : Prop :=
  i = .resetStream ∨ (∃ m, i = .setMode m) ∨ i = .dgram ∨ attemptStep i

/-- Where an instruction that takes `s` to `t` discards the stream: RESET_STREAM and SET_MODE (40_host_commands.md
R150, R151), DGRAM on a wrong length (R144), and the end of a datagram attempt (46_resync_sequencer.md R288). -/
def discardsStream (c : Config) (i : Instr) (s t : State) : Prop :=
  ((i = .resetStream ∨ ∃ m, i = .setMode m) ∧ s.seqState ≠ .cfgError) ∨
  (i = .dgram ∧ s.seqState ≠ .cfgError ∧ s.mode = .datagram ∧ s.buflen.toNat ≠ c.F) ∨
  (attemptStep i ∧ s.mode = .datagram ∧ t.seqState = .idle)

/-- The result codes of 30_encoding.md R116. -/
def codeNumber : ResultCode → BitVec 4
  | .ok => 0
  | .syncNotFound => 1
  | .innerDecodeFailure => 2
  | .outerDecodeFailure => 3
  | .integrityMismatch => 4
  | .decryptionUnavailable => 5

/-- How many records of a list have a code, as a 32-bit count. -/
def countOf (code : ResultCode) (rs : List Record) : Word :=
  BitVec.ofNat 32 (rs.countP (fun r => decide (r.code = code)))

/-- The number of bits on which two `n`-bit patterns agree. -/
def agreeing (n x y : Nat) : Nat :=
  (List.range n).countP (fun i => Nat.testBit x i == Nat.testBit y i)

end Sys2Proof.Claims

open Sys2Proof Sys2Proof.Machine Sys2Proof.Claims

/-! ### Encoding -/

/-- No bit of an encoding is dropped: 30_encoding.md R101, R102 and 10_state.md R32. -/
def Obligations.DecodeEncodeRoundTrip : Prop :=
  ∀ i : Instr, i.wellFormed = true → decode (encode i) = .ok i

/-- Each word and each SEQ_STATE code has at most one meaning (30_encoding.md R100, R101). -/
def Obligations.EncodeDecodeRoundTrip : Prop :=
  ∀ (code : Code) (i : Instr), decode code = .ok i → i.wellFormed = true ∧ encode i = code

/-- The decoder and the match and mask of spec/opcode_table.json agree (30_encoding.md R105). -/
def Obligations.DecodeFollowsOpcodeTable : Prop :=
  ∀ (code : Code) (j : Instr), j.row.matchesCode code = true ↔ ∃ i, decode code = .ok i ∧ i.row = j.row

/-- A defined opcode that matches no row is named as a non-zero reserved field, and nothing else is
(30_encoding.md R104). -/
def Obligations.ReservedFieldWordsAreNamed : Prop :=
  ∀ (w : Word) (op : BitVec 4), decode (.command w) = .error (.reservedField op) ↔
    op = w.extractLsb' 28 4 ∧ op.toNat < 8 ∧ ∀ j : Instr, j.row.matchesCode (.command w) = false

/-- Words written out from 30_encoding.md R101 and R106 (95_test_vectors.md section 3.7). -/
def Obligations.SampleWordsDecode : Prop :=
  decode (.command 0x00000000) = .ok .nop ∧
  decode (.command 0x1003B000) = .ok (.pushBits 3 0xB000) ∧
  decode (.command 0x20000000) = .ok .scan ∧
  decode (.command 0x30000000) = .ok .dgram ∧
  decode (.command 0x40000000) = .ok .resetStream ∧
  decode (.command 0x50000001) = .ok (.setMode .datagram) ∧
  decode (.command 0x6000000F) = .ok (.readReg 0x0F) ∧
  decode (.command 0x70000001) = .ok (.clear false true) ∧
  decode (.command 0xF0000000) = .ok (.reservedOp 0xF 0) ∧
  decode (.seq 0x1) = .ok .seqScanning ∧
  decode (.seq 0x6) = .ok .seqDecrypt ∧
  decode (.command 0x20000001) = .error (.reservedField 2) ∧
  decode (.seq 0x7) = .error (.neverHeld 7)

/-- The codes of SEQ_STATE (10_state.md R32): each state has its code, and 0x7 to 0xE are no state's. -/
def Obligations.SeqStateCodes : Prop :=
  SeqState.code .idle = 0x0 ∧ SeqState.code .scanning = 0x1 ∧ SeqState.code .inner = 0x2 ∧
  SeqState.code .decAsm = 0x3 ∧ SeqState.code .outer = 0x4 ∧ SeqState.code .integrity = 0x5 ∧
  SeqState.code .decrypt = 0x6 ∧ SeqState.code .cfgError = 0xF ∧
  ∀ k : BitVec 4, (SeqState.ofCode k = none ↔ 0x7 ≤ k ∧ k ≤ 0xE) ∧ ∀ st, SeqState.ofCode k = some st ↔ st.code = k

/-! ### The step -/

/-- A step at which a command is accepted runs the decoded command (40_host_commands.md R140, R154). -/
def Obligations.StepRunsAcceptedCommand : Prop :=
  ∀ (s : State) (w : Word) (rest : List Word) (i : Instr), coreTurn s = true → acceptsCommands s.seqState = true →
    s.port = w :: rest → decode (.command w) = .ok i → step s = exec i { afterTurn s with port := rest }

/-- A step with no command to accept runs the step SEQ_STATE selects (46_resync_sequencer.md R280). -/
def Obligations.StepRunsSequencerState : Prop :=
  ∀ (s : State) (i : Instr), coreTurn s = true → (acceptsCommands s.seqState = true → s.port = []) →
    decode (.seq s.seqState.code) = .ok i → step s = exec i (afterTurn s)

/-- A word with a defined opcode and a non-zero reserved field is consumed, sets CMD_ERR and does nothing else
(40_host_commands.md R152). -/
def Obligations.StepRefusesReservedField : Prop :=
  ∀ (s : State) (w : Word) (rest : List Word), coreTurn s = true → acceptsCommands s.seqState = true →
    s.port = w :: rest → (w.extractLsb' 28 4).toNat < 8 → (∀ j : Instr, j.row.matchesCode (.command w) = false) →
    step s = .next (cmdErrSet { afterTurn s with port := rest })

/-- While the sequencer runs, the words on the port are not consumed and have no effect (40_host_commands.md R154). -/
def Obligations.BusyStepHoldsCommands : Prop :=
  ∀ (s : State) (p : List Word), coreTurn s = true → acceptsCommands s.seqState = false →
    step { s with port := p } = mapNext (fun t => { t with port := p }) (step s)

/-- The steps of the agents outside the core: a removal takes the head of a FIFO that holds an entry and changes
nothing else (10_state.md R47, R48); reset leaves the core as right after reset (70_reset_and_hazards.md R360).
MODEL'S CHOICES: the turns (log entry 4), a removal at an empty FIFO, which changes nothing (log entry 21), and what
stays of the agents' own lists at reset (log entry 22). -/
def Obligations.OutsideAgentsTurns : Prop :=
  ∀ (s : State) (ts : List Turn),
    (∀ r rest, s.turns = .takeResult :: ts → s.results = r :: rest →
      step s = .next { s with turns := ts, results := rest }) ∧
    (s.turns = .takeResult :: ts → s.results = [] → step s = .next { s with turns := ts }) ∧
    (∀ w rest, s.turns = .takeResponse :: ts → s.responses = w :: rest →
      step s = .next { s with turns := ts, responses := rest }) ∧
    (s.turns = .takeResponse :: ts → s.responses = [] → step s = .next { s with turns := ts }) ∧
    (s.turns = .reset :: ts → step s = .next { State.reset with port := s.port, turns := ts })

/-! ### Reset -/

/-- The reset values of 70_reset_and_hazards.md R360, R361 and R362, for every configuration. -/
def Obligations.ResetLeavesStatedValues : Prop :=
  State.reset = State.resetAt Config.machine ∧ ∀ c : Config,
    let r := State.resetAt c
    r.mode = .streaming ∧ r.offset = 0 ∧ r.buflen = 0 ∧ r.buf = [] ∧ r.prevBit = false ∧
    r.flags = { ovf := false, cmdErr := false, dlenErr := false, lenClamp := false } ∧
    r.pass = { eval := false, candSeen := false } ∧
    r.counters = { ok := 0, sync := 0, inner := 0, outer := 0, integ := 0 } ∧
    r.latches = { cscore := 0, dscore := 0, icorr := 0, ocorr := 0 } ∧
    r.dec = none ∧ r.data = none ∧ r.results = [] ∧ r.responses = [] ∧
    r.key = keyParse c.keyText ∧
    (keyParse c.keyText = none → r.cfgCause = 1) ∧
    (keyParse c.keyText ≠ none → c.innerAvailable = false → r.cfgCause = 2) ∧
    (keyParse c.keyText ≠ none → c.innerAvailable = true → c.outerAvailable = false → r.cfgCause = 3) ∧
    (keyParse c.keyText ≠ none → c.innerAvailable = true → c.outerAvailable = true → r.cfgCause = 0) ∧
    (r.cfgCause = 0 → r.seqState = .idle) ∧ (r.cfgCause ≠ 0 → r.seqState = .cfgError)

/-- A legal configuration has its reset state, and one whose numbers break a constraint of 00_scope.md R7 is refused
(R9). -/
def Obligations.BootRefusesIllegalGeometry : Prop :=
  ∀ c : Config,
    (c.Legal → boot c = .next (State.resetAt c)) ∧
    (¬(0 < c.A ∧ c.A % 8 = 0 ∧ c.ASM < 2 ^ c.A ∧ c.CASM < 2 ^ c.W ∧ c.T_C ≤ c.W ∧ c.T_D ≤ c.A ∧ c.K ≤ c.N ∧ 0 < c.D ∧
      c.D % 16 = 0 ∧ c.V < c.F ∧ c.F ≤ c.BUF_CAP) → boot c = .refused .illegalConfiguration)

/-- A codec binding with a success of another length is refused, whatever the rest of the configuration
(43_fec_adapter.md R220, R221; 00_scope.md R9; 93_implementation_defined.md U4). -/
def Obligations.BootRefusesWrongLengthCodecs : Prop :=
  ∀ (c : Config) (raw out : Bytes) (n : Nat),
    (raw.length = c.FB → c.innerDecode raw = some (out, n) → out.length ≠ c.DB →
      boot c = .refused .illegalConfiguration) ∧
    (raw.length = c.N → c.outerDecode raw = some (out, n) → out.length ≠ c.K →
      boot c = .refused .illegalConfiguration)

/-! ### Results of the commands -/

/-- NOP (40_host_commands.md R145), in every state. -/
def Obligations.NopChangesNothing : Prop :=
  ∀ s : State, exec .nop s = .next s

/-- PUSH_BITS that fits (40_host_commands.md R141, 41_diff_decoder.md R180). -/
def Obligations.PushBitsAppendsDecodedBits : Prop :=
  ∀ (nm1 : BitVec 4) (data : BitVec 16) (s : State), s.seqState ≠ .cfgError →
    s.buflen.toNat - s.offset.toNat + (nm1.toNat + 1) ≤ Config.machine.BUF_CAP →
    s.buflen.toNat + (nm1.toNat + 1) ≤ 2 ^ 32 - 1 →
    exec (.pushBits nm1 data) s = .next { s with
      buf := s.buf ++ pushedDecoded (diffOn Config.machine s) s.prevBit nm1 data
      buflen := s.buflen + BitVec.ofNat 32 (nm1.toNat + 1)
      prevBit := if diffOn Config.machine s then data.getLsbD (15 - nm1.toNat) else s.prevBit }

/-- PUSH_BITS that does not fit is dropped whole (40_host_commands.md R142). -/
def Obligations.PushBitsOverflowDropsWhole : Prop :=
  ∀ (nm1 : BitVec 4) (data : BitVec 16) (s : State), s.seqState ≠ .cfgError →
    (Config.machine.BUF_CAP < s.buflen.toNat - s.offset.toNat + (nm1.toNat + 1) ∨
      2 ^ 32 - 1 < s.buflen.toNat + (nm1.toNat + 1)) →
    exec (.pushBits nm1 data) s = .next { s with flags := { s.flags with ovf := true } }

/-- SCAN (40_host_commands.md R143): a pass starts in streaming mode, CMD_ERR in datagram mode. -/
def Obligations.ScanStartsPass : Prop :=
  ∀ s : State, s.seqState ≠ .cfgError →
    (s.mode = .streaming →
      exec .scan s = .next { s with pass := { eval := false, candSeen := false }, seqState := .scanning }) ∧
    (s.mode = .datagram → exec .scan s = .next (cmdErrSet s))

/-- DGRAM (40_host_commands.md R144, 46_resync_sequencer.md R287): an attempt starts on exactly F bits; any other
length discards the bits; CMD_ERR in streaming mode. -/
def Obligations.DgramStartsAttempt : Prop :=
  ∀ s : State, s.seqState ≠ .cfgError →
    (s.mode = .datagram → s.buflen.toNat = Config.machine.F →
      exec .dgram s = .next { s with
        latches := { cscore := 0, dscore := 0, icorr := 0, ocorr := 0 }, seqState := .inner }) ∧
    (s.mode = .datagram → s.buflen.toNat ≠ Config.machine.F →
      exec .dgram s = .next (emptied { s with flags := { s.flags with dlenErr := true } })) ∧
    (s.mode = .streaming → exec .dgram s = .next (cmdErrSet s))

/-- RESET_STREAM (40_host_commands.md R149, R150) empties the stream and touches nothing else. -/
def Obligations.ResetStreamEmptiesStream : Prop :=
  ∀ s : State, s.seqState ≠ .cfgError → exec .resetStream s = .next { s with
    buf := [], buflen := 0, offset := 0, prevBit := false, pass := { eval := false, candSeen := false } }

/-- SET_MODE (40_host_commands.md R151): the mode, and the stream reset, equal modes included. -/
def Obligations.SetModeResetsStream : Prop :=
  ∀ (m : Mode) (s : State), s.seqState ≠ .cfgError → exec (.setMode m) s = .next { s with
    mode := m, buf := [], buflen := 0, offset := 0, prevBit := false, pass := { eval := false, candSeen := false } }

/-- READ_REG of every mapped address (40_host_commands.md R157, 10_state.md R49, 20_memory.md R75), in every state. A
BUF_FREE too wide for 32 bits is a free value (log entry 11). -/
def Obligations.ReadRegRespondsRegister : Prop :=
  ∀ s : State,
    let answers (a : BitVec 8) (w : Word) : Prop :=
      exec (.readReg a) s = .next { s with responses := s.responses ++ [w] }
    let free := Config.machine.BUF_CAP - (s.buflen.toNat - s.offset.toNat)
    answers 0x00 (statusWord s) ∧ answers 0x01 s.offset ∧ answers 0x02 s.buflen ∧
    answers 0x03 (if s.prevBit then 1 else 0) ∧ answers 0x04 s.counters.ok ∧ answers 0x05 s.counters.sync ∧
    answers 0x06 s.counters.inner ∧ answers 0x07 s.counters.outer ∧ answers 0x08 s.counters.integ ∧
    answers 0x09 s.latches.icorr ∧ answers 0x0A s.latches.ocorr ∧ answers 0x0B s.latches.cscore ∧
    answers 0x0C s.latches.dscore ∧
    answers 0x0D (if free < 2 ^ 32 then BitVec.ofNat 32 free else Config.machine.overwide free) ∧
    answers 0x0E (BitVec.ofNat 32 Config.machine.F)

/-- READ_REG at an unmapped address (40_host_commands.md R156). -/
def Obligations.ReadRegUnmappedRespondsZero : Prop :=
  ∀ (a : BitVec 8) (s : State), 0x0F ≤ a →
    exec (.readReg a) s = .next (cmdErrSet { s with responses := s.responses ++ [0] })

/-- The fields of STATUS (10_state.md R45). -/
def Obligations.StatusFields : Prop :=
  ∀ s : State,
    (statusWord s).extractLsb' 0 4 = s.seqState.code ∧
    ((statusWord s).getLsbD 4 = true ↔ s.seqState = .cfgError) ∧
    (statusWord s).extractLsb' 5 3 = s.cfgCause ∧
    (statusWord s).getLsbD 8 = s.flags.ovf ∧ (statusWord s).getLsbD 9 = s.flags.cmdErr ∧
    (statusWord s).getLsbD 10 = s.flags.dlenErr ∧ (statusWord s).getLsbD 11 = s.flags.lenClamp ∧
    ((statusWord s).getLsbD 12 = true ↔ s.mode = .datagram) ∧
    (statusWord s).extractLsb' 13 19 = 0

/-- CLEAR (40_host_commands.md R153): each of its two bits clears its group and no other state. -/
def Obligations.ClearClearsChosenGroups : Prop :=
  ∀ (cnt flg : Bool) (s : State), s.seqState ≠ .cfgError → exec (.clear cnt flg) s = .next { s with
    flags := if flg then { ovf := false, cmdErr := false, dlenErr := false, lenClamp := false } else s.flags
    counters := if cnt then { ok := 0, sync := 0, inner := 0, outer := 0, integ := 0 } else s.counters
    latches := if cnt then { cscore := 0, dscore := 0, icorr := 0, ocorr := 0 } else s.latches }

/-- A reserved opcode sets CMD_ERR and does nothing else, in every state (30_encoding.md R103). That the step consumes the
word (40_host_commands.md R158) is StepRunsAcceptedCommand's. -/
def Obligations.ReservedOpcodeSetsCmdErr : Prop :=
  ∀ (op : BitVec 4) (ignored : BitVec 28) (s : State), exec (.reservedOp op ignored) s = .next (cmdErrSet s)

/-- In CFG_ERROR every command but NOP and READ_REG sets CMD_ERR and does nothing else (40_host_commands.md R155). -/
def Obligations.CfgErrorRefusesCommands : Prop :=
  ∀ (i : Instr) (s : State), s.seqState = .cfgError →
    ((∃ nm1 data, i = .pushBits nm1 data) ∨ i = .scan ∨ i = .dgram ∨ i = .resetStream ∨ (∃ m, i = .setMode m) ∨
      ∃ cnt flg, i = .clear cnt flg) → exec i s = .next (cmdErrSet s)

/-! ### Results of the sequencer steps -/

/-- SCANNING with less than a frame left ends the pass (42_scanner.md R202, 46_resync_sequencer.md R283). -/
def Obligations.ScanningEndsPass : Prop :=
  ∀ s : State, s.buflen.toNat - s.offset.toNat < Config.machine.F →
    exec .seqScanning s = .next (
      if s.pass.eval = true ∧ s.pass.candSeen = false then
        { s with
          results := s.results ++ [recordAt .syncNotFound 0 [] s]
          counters := { s.counters with sync := s.counters.sync + 1 }
          seqState := .idle }
      else { s with seqState := .idle })

/-- SCANNING with a whole frame left scores the window at OFFSET and starts an attempt or advances by one bit
(42_scanner.md R201, R202, R203; 46_resync_sequencer.md R282). -/
def Obligations.ScanningScoresWindow : Prop :=
  ∀ s : State, Config.machine.F ≤ s.buflen.toNat - s.offset.toNat →
    let c := Config.machine
    let score := c.W - popcount (toInt ((s.buf.drop s.offset.toNat).take c.W) ^^^ c.CASM)
    exec .seqScanning s = .next (
      if c.T_C ≤ score then
        { s with
          latches := { cscore := BitVec.ofNat 32 score, dscore := 0, icorr := 0, ocorr := 0 }
          pass := { eval := true, candSeen := true }
          seqState := .inner }
      else
        { s with
          latches := { s.latches with cscore := BitVec.ofNat 32 score }
          pass := { eval := true, candSeen := s.pass.candSeen }
          offset := s.offset + 1
          seqState := .scanning })

/-- INNER hands the packed RawFrame to the inner codec and latches the DecodedFrame, or emits InnerDecodeFailure with
sub-cause 1 (43_fec_adapter.md R222, R223). -/
def Obligations.InnerDecodesRawFrame : Prop :=
  ∀ s : State, s.offset.toNat + Config.machine.F ≤ s.buflen.toNat →
    exec .seqInner s = .next (
      match Config.machine.innerDecode (pack ((s.buf.drop s.offset.toNat).take Config.machine.F)) with
      | some (dec, cnt) =>
        { s with
          dec := some dec, latches := { s.latches with icorr := BitVec.ofNat 32 cnt }, seqState := .decAsm }
      | none => attemptEnded 1 { s with
          results := s.results ++ [recordAt .innerDecodeFailure 1 [] s]
          counters := { s.counters with inner := s.counters.inner + 1 } })

/-- DEC_ASM scores the decoded marker and confirms it, or emits InnerDecodeFailure with sub-cause 2
(43_fec_adapter.md R224, R225). -/
def Obligations.DecAsmConfirmsMarker : Prop :=
  ∀ (s : State) (dec : Bytes), s.dec = some dec →
    let c := Config.machine
    let score := c.A - popcount (toInt (unpack (dec.take (c.A / 8))) ^^^ c.ASM)
    let t := { s with latches := { s.latches with dscore := BitVec.ofNat 32 score } }
    exec .seqDecAsm s = .next (
      if c.T_D ≤ score then { t with seqState := .outer }
      else attemptEnded 1 { t with
        results := s.results ++ [recordAt .innerDecodeFailure 2 [] t]
        counters := { s.counters with inner := s.counters.inner + 1 } })

/-- OUTER hands the block after the marker to the outer codec and latches the Payload, or emits OuterDecodeFailure
(43_fec_adapter.md R226, R227). -/
def Obligations.OuterDecodesBlock : Prop :=
  ∀ (s : State) (dec : Bytes), s.dec = some dec →
    exec .seqOuter s = .next (
      match Config.machine.outerDecode ((dec.drop (Config.machine.A / 8)).take Config.machine.N) with
      | some (data, cnt) =>
        { s with
          data := some data, latches := { s.latches with ocorr := BitVec.ofNat 32 cnt }, seqState := .integrity }
      | none => attemptEnded 1 { s with
          results := s.results ++ [recordAt .outerDecodeFailure 0 [] s]
          counters := { s.counters with outer := s.counters.outer + 1 } })

/-- INTEGRITY compares the CRC of `DATA[2 .. K-4)` with the stored checksum; a mismatch is reported without a payload
and advances as a success (44_parser_integrity.md R243, R244, R245). -/
def Obligations.IntegrityComparesChecksum : Prop :=
  ∀ (s : State) (data : Bytes), s.data = some data →
    let c := Config.machine
    exec .seqIntegrity s = .next (
      if (crc32 ((data.drop 2).take (c.K - 4 - 2))).toNat = le32 data (c.K - 4) then { s with seqState := .decrypt }
      else attemptEnded (c.F - c.V) { s with
        results := s.results ++ [recordAt .integrityMismatch 0 [] s]
        counters := { s.counters with integ := s.counters.integ + 1 } })

/-- DECRYPT emits the first `min(len, D)` decrypted bytes and sets LEN_CLAMP when `len > D` (45_decryptor.md R263,
R264). MODEL'S CHOICE (log entry 9): where KEY holds no value, the key is a free value. -/
def Obligations.DecryptEmitsPayload : Prop :=
  ∀ (s : State) (data : Bytes), s.data = some data →
    let c := Config.machine
    let key := match s.key with
      | some key => key
      | none => c.unheldKey
    let plain := cbcDecrypt c key ((data.drop (2 + c.R + c.C)).take c.D)
    let len := le16 data 0
    exec .seqDecrypt s = .next (attemptEnded (c.F - c.V) { s with
      flags := { s.flags with lenClamp := if c.D < len then true else s.flags.lenClamp }
      results := s.results ++ [recordAt .ok 0 (plain.take (min len c.D)) s]
      counters := { s.counters with ok := s.counters.ok + 1 } })

/-- MODEL'S CHOICE (log entry 6): the CFG_ERROR row takes no step (46_resync_sequencer.md R280). -/
def Obligations.CfgErrorTakesNoStep : Prop :=
  ∀ s : State, exec .seqCfgError s = .next s

/-- The faults, each exactly where it is raised: a read of BUF past BUFLEN (20_memory.md R72; log entry 10), a read of
DEC or DATA unwritten (10_state.md R43, 93_implementation_defined.md U23). Everywhere else every instruction answers a
next state. MODEL'S CHOICES among those: the CFG_ERROR row (log entry 6), and DECRYPT with no key held, where the read of
KEY is a free value and no fault (log entry 9). -/
def Obligations.StopsAreTheNamedFaults : Prop :=
  ∀ (i : Instr) (s : State),
    let pastEnd := i = .seqInner ∧ s.buflen.toNat < s.offset.toNat + Config.machine.F
    let noDec := (i = .seqDecAsm ∨ i = .seqOuter) ∧ s.dec = none
    let noData := (i = .seqIntegrity ∨ i = .seqDecrypt) ∧ s.data = none
    (pastEnd → exec i s = .fault .bufReadOutOfRange) ∧
    (noDec → exec i s = .fault .unwrittenDec) ∧
    (noData → exec i s = .fault .unwrittenData) ∧
    (¬pastEnd → ¬noDec → ¬noData → ∃ t, exec i s = .next t)

/-! ### Rules of the whole machine -/

/-- Reset satisfies the invariant. -/
def Obligations.ResetSatisfiesInvariant : Prop :=
  Inv Config.machine State.reset

/-- Every step keeps the invariant (20_memory.md R74, R75; 10_state.md R38, R40, R42, R43; 30_encoding.md R116). -/
def Obligations.StepKeepsInvariant : Prop :=
  ∀ s t : State, Inv Config.machine s → step s = .next t → Inv Config.machine t

/-- No step of a sound state stops: no unwritten latch is read and no read leaves BUF (10_state.md R43, 20_memory.md
R72). MODEL'S CHOICES: where no step is enabled, or CONSUMER finds its FIFO empty, the model's step still answers a next
state (log entries 5, 6, 21). -/
def Obligations.SoundStateAlwaysSteps : Prop :=
  ∀ s : State, Inv Config.machine s → ∃ t, step s = .next t

/-- The stream is append-only: an instruction keeps the bits of BUF and adds at its end the decoded bits of a push;
only a stream reset, and each of them, discards the whole buffer (20_memory.md R73, 40_host_commands.md R149). -/
def Obligations.BufIsAppendOnly : Prop :=
  ∀ (i : Instr) (s t : State), exec i s = .next t →
    (discardsStream Config.machine i s t → t.buf = [] ∧ t.buflen = 0 ∧ t.offset = 0 ∧ t.prevBit = false ∧
      t.pass = { eval := false, candSeen := false }) ∧
    (¬discardsStream Config.machine i s t →
      ∃ more, t.buf = s.buf ++ more ∧ t.buflen = s.buflen + BitVec.ofNat 32 more.length ∧
        (more = [] ∨ more = (diffDecodeAll Config.machine s.mode s.prevBit (rawBitsOf i)).1))

/-- Which instructions write which register (10_state.md R31 to R48; the sticky flags have a statement of their own):
KEY and CFG_CAUSE none, MODE only SET_MODE, SEQ_STATE only SCAN, DGRAM and the sequencer, OFFSET, BUF with BUFLEN,
PREV_BIT and the pass flags only those and the stream resets of their entries, each attempt latch only the step that
measures it, an attempt's start and CLEAR, DEC only INNER, DATA only OUTER, the counters only an emitting step or CLEAR,
the RESULT FIFO only the sequencer, the RESPONSE FIFO only READ_REG. -/
def Obligations.RegistersHaveTheirWriters : Prop :=
  ∀ (i : Instr) (s t : State), exec i s = .next t →
    t.key = s.key ∧ t.cfgCause = s.cfgCause ∧ t.port = s.port ∧ t.turns = s.turns ∧
    (t.mode = s.mode ∨ ∃ m, i = .setMode m) ∧
    (t.responses = s.responses ∨ ∃ a w, i = .readReg a ∧ t.responses = s.responses ++ [w]) ∧
    (t.dec = s.dec ∨ i = .seqInner) ∧ (t.data = s.data ∨ i = .seqOuter) ∧
    (t.counters = s.counters ∨ (∃ flg, i = .clear true flg) ∨ ∃ r, t.results = s.results ++ [r]) ∧
    (t.results = s.results ∨ ((i = .seqScanning ∨ attemptStep i) ∧ ∃ r, t.results = s.results ++ [r])) ∧
    (t.seqState = s.seqState ∨ i = .scan ∨ i = .dgram ∨ i = .seqScanning ∨ attemptStep i) ∧
    (t.offset = s.offset ∨ i = .seqScanning ∨ canEmptyStream i) ∧
    ((t.buf = s.buf ∧ t.buflen = s.buflen) ∨ (∃ nm1 data, i = .pushBits nm1 data) ∨ canEmptyStream i) ∧
    (t.prevBit = s.prevBit ∨ (∃ nm1 data, i = .pushBits nm1 data) ∨ canEmptyStream i) ∧
    (t.pass = s.pass ∨ i = .scan ∨ i = .seqScanning ∨ canEmptyStream i) ∧
    (t.latches = s.latches ∨ (∃ flg, i = .clear true flg) ∨ i = .dgram ∨ i = .seqScanning ∨
      (i = .seqInner ∧ t.latches = { s.latches with icorr := t.latches.icorr }) ∨
      (i = .seqDecAsm ∧ t.latches = { s.latches with dscore := t.latches.dscore }) ∨
      (i = .seqOuter ∧ t.latches = { s.latches with ocorr := t.latches.ocorr }))

/-- The sticky flags: only CLEAR with FLG = 1 clears one, OVF is set only by PUSH_BITS, DLEN_ERR only by DGRAM,
LEN_CLAMP only by DECRYPT, CMD_ERR only by a command other than NOP (10_state.md R39, 60_exceptions.md R322). -/
def Obligations.StickyFlagsHaveTheirWriters : Prop :=
  ∀ (i : Instr) (s t : State), exec i s = .next t →
    (∃ cnt, i = .clear cnt true) ∨
    (t.flags.ovf = s.flags.ovf ∨ (t.flags.ovf = true ∧ ∃ nm1 data, i = .pushBits nm1 data)) ∧
    (t.flags.dlenErr = s.flags.dlenErr ∨ (t.flags.dlenErr = true ∧ i = .dgram)) ∧
    (t.flags.lenClamp = s.flags.lenClamp ∨ (t.flags.lenClamp = true ∧ i = .seqDecrypt)) ∧
    (t.flags.cmdErr = s.flags.cmdErr ∨ (t.flags.cmdErr = true ∧ i ≠ .nop ∧ ∃ w, encode i = .command w))

/-- The counters count the records: an instruction other than CLEAR emits at most one record and adds to each counter
the number of records of its code (10_state.md R41). -/
def Obligations.CountersCountRecords : Prop :=
  ∀ (i : Instr) (s t : State), exec i s = .next t → (∀ cnt flg, i ≠ .clear cnt flg) →
    ∃ new : List Record, new.length ≤ 1 ∧ t.results = s.results ++ new ∧
      t.counters.ok = s.counters.ok + countOf .ok new ∧
      t.counters.sync = s.counters.sync + countOf .syncNotFound new ∧
      t.counters.inner = s.counters.inner + countOf .innerDecodeFailure new ∧
      t.counters.outer = s.counters.outer + countOf .outerDecodeFailure new ∧
      t.counters.integ = s.counters.integ + countOf .integrityMismatch new

/-- The core never reads either FIFO back: other contents waiting there change nothing else of what an instruction
does, and it appends the same entries (00_scope.md R18, 20_memory.md R85). -/
def Obligations.CoreNeverReadsFifos : Prop :=
  ∀ (i : Instr) (s : State) (rs : List Record) (qs : List Word),
    exec i (withFifos rs qs s) =
      mapNext (fun t => withFifos (rs ++ t.results.drop s.results.length) (qs ++ t.responses.drop s.responses.length) t)
        (exec i s)

/-- The state graph (46_resync_sequencer.md R280), for every step of HOST or SEQ. -/
def Obligations.StepFollowsStateGraph : Prop :=
  ∀ s t : State, coreTurn s = true → step s = .next t → edge s.seqState t.seqState = true

/-- CFG_ERROR lasts until the next reset, with its cause, and decodes nothing (70_reset_and_hazards.md R362,
60_exceptions.md R323). -/
def Obligations.CfgErrorLastsUntilReset : Prop :=
  ∀ s t : State, s.seqState = .cfgError → s.turns.head? ≠ some .reset → step s = .next t →
    t.seqState = .cfgError ∧ t.cfgCause = s.cfgCause ∧ t.buf = s.buf ∧ t.counters = s.counters ∧
      (t.results = s.results ∨ t.results = s.results.drop 1)

/-- Within a pass OFFSET never decreases, and every return to SCANNING has moved it forward, so no position is
evaluated twice (46_resync_sequencer.md R290); the pass ends only where less than a frame is left
(70_reset_and_hazards.md R382). -/
def Obligations.PassNeverRescans : Prop :=
  ∀ s t : State, Inv Config.machine s → s.mode = .streaming → coreTurn s = true →
    acceptsCommands s.seqState = false → step s = .next t →
    s.offset.toNat ≤ t.offset.toNat ∧ (t.seqState = .scanning → s.offset.toNat < t.offset.toNat) ∧
      t.buf = s.buf ∧ t.buflen = s.buflen ∧
      (t.seqState = .idle → t.offset = s.offset ∧ t.buflen.toNat - t.offset.toNat < Config.machine.F)

/-- Every pass reaches IDLE within `6·max(0, S − F + 1) + 1` steps, and a datagram attempt within 5, under every legal
configuration (46_resync_sequencer.md R289). -/
def Obligations.PassAndAttemptTerminate : Prop :=
  ∀ (c : Config) (s : State), c.Legal → Inv c s → s.turns = [] →
    (s.seqState = .scanning → ∃ k t, k ≤ passBound c s ∧ runsTo c k s t ∧ t.seqState = .idle) ∧
    (s.mode = .datagram → s.seqState = .inner → ∃ k t, k ≤ 5 ∧ runsTo c k s t ∧ t.seqState = .idle)

/-- The scanner takes the first offset that passes, after one step for each earlier offset (42_scanner.md R205,
R207). -/
def Obligations.ScannerTakesFirstMatch : Prop :=
  ∀ (c : Config) (s : State) (k : Nat), c.Legal → Inv c s → s.turns = [] → s.seqState = .scanning →
    s.offset.toNat ≤ k → k + c.F ≤ s.buflen.toNat → windowPasses c s.buf k = true →
    (∀ o, s.offset.toNat ≤ o → o < k → windowPasses c s.buf o = false) →
    ∃ t, runsTo c (k - s.offset.toNat + 1) s t ∧ t.seqState = .inner ∧ t.offset.toNat = k ∧
      t.latches.cscore = BitVec.ofNat 32 (windowScore c s.buf k) ∧ t.buf = s.buf ∧ t.results = s.results

/-- The score is the number of agreeing bits, `W` minus the Hamming distance, in `0 .. W`; the window passes exactly
when it reaches `T_C`, that is, when the distance is at most `W − T_C`; an exact copy of CASM scores `W`
(42_scanner.md R201, R207). -/
def Obligations.WindowScoreCountsAgreement : Prop :=
  ∀ (c : Config) (buf : Bits) (o : Nat), c.Legal → o + c.W ≤ buf.length →
    let win := toInt ((buf.drop o).take c.W)
    windowScore c buf o = agreeing c.W win c.CASM ∧
    windowScore c buf o = c.W - popcount (win ^^^ c.CASM) ∧ popcount (win ^^^ c.CASM) ≤ c.W ∧
    (windowPasses c buf o = true ↔ c.T_C ≤ windowScore c buf o) ∧
    (windowPasses c buf o = true ↔ popcount (win ^^^ c.CASM) ≤ c.W - c.T_C) ∧
    (win = c.CASM → windowScore c buf o = c.W)

/-- Two valid frames with a gap of `g` bits between them are both decoded in one pass, the second after exactly `V + g`
failed windows (46_resync_sequencer.md R291). -/
def Obligations.BackToBackFramesDecode : Prop :=
  ∀ (c : Config) (s : State) (g : Nat), c.Legal → Inv c s → s.turns = [] → s.seqState = .scanning →
    let o := s.offset.toNat
    ValidFrame c s.buf o → ValidFrame c s.buf (o + c.F + g) → o + 2 * c.F + g ≤ s.buflen.toNat →
    (∀ p, o + c.F - c.V ≤ p → p < o + c.F + g → windowPasses c s.buf p = false) →
    ∃ t r1 r2, runsTo c (6 + (c.V + g) + 6) s t ∧ t.seqState = .scanning ∧ t.buf = s.buf ∧
      t.offset.toNat = o + 2 * c.F + g - c.V ∧ t.results = s.results ++ [r1, r2] ∧
      r1.code = .ok ∧ r1.offset.toNat = o ∧ r2.code = .ok ∧ r2.offset.toNat = o + c.F + g ∧
      t.counters.ok = s.counters.ok + 2

/-! ### The components -/

/-- Decoding the encoded sequence gives the sequence back (41_diff_decoder.md R183). -/
def Obligations.DiffDecodeInvertsEncode : Prop :=
  ∀ (c : Config) (d : Bits), (diffDecodeAll c .streaming false (diffEncodeAll false d)).1 = d

/-- A raw sequence pushed whole or in two parts leaves the same state, PREV_BIT carried (41_diff_decoder.md R182). -/
def Obligations.PushSplitsAnywhere : Prop :=
  ∀ (c : Config) (a b : Bits) (s : State),
    pushRaw c (a ++ b) s = pushRaw c b (pushRaw c a s) ∧
    (pushRaw c a s).buf = s.buf ++ (diffDecodeAll c s.mode s.prevBit a).1 ∧
    (pushRaw c a s).prevBit = (diffDecodeAll c s.mode s.prevBit a).2

/-- The decoded stream of an inverted raw stream differs only in its first bit (41_diff_decoder.md R184). -/
def Obligations.PhaseInversionChangesFirstBitOnly : Prop :=
  ∀ (c : Config) (prev r : Bool) (rest : Bits),
    (diffDecodeAll c .streaming prev ((r :: rest).map (fun b => !b))).1 =
      (!(r ^^ prev)) :: ((diffDecodeAll c .streaming prev (r :: rest)).1.drop 1)

/-- Pack and Unpack are inverses, byte `j` of Pack is ToInt of the bits `8j` to `8j + 7`, and in ToInt the earlier bit
is the more significant (00_scope.md R13, R14, 20_memory.md R77). -/
def Obligations.PackUnpackAreInverse : Prop :=
  (∀ b : Bytes, pack (unpack b) = b) ∧ (∀ s : Bits, s.length % 8 = 0 → unpack (pack s) = s) ∧
    (∀ s : Bits, (pack s).length = s.length / 8 ∧
      ∀ j < s.length / 8, ((pack s).getD j 0).toNat = toInt ((s.drop (8 * j)).take 8)) ∧
    ∀ (b : Bool) (s : Bits), toInt (b :: s) = (if b then 2 ^ s.length else 0) + toInt s

/-- Changing any one byte of `DATA[2 .. K-4)` changes the CRC the core computes; changing the length field never does
(44_parser_integrity.md R246). The CRC's parameters are from general knowledge (log entry 15). -/
def Obligations.CrcDetectsByteChange : Prop :=
  ∀ (c : Config) (data : Bytes) (i : Nat) (x : Byte), data.length = c.K →
    (2 ≤ i → i < c.K - 4 → data.getD i 0 ≠ x → crc32 (crcRange c (data.set i x)) ≠ crc32 (crcRange c data)) ∧
    (i < 2 → crcRange c (data.set i x) = crcRange c data)

/-- CBC decryption is the left inverse of CBC encryption (45_decryptor.md R266), and it is CBC: plaintext block `j` is
BLOCK_DEC of ciphertext block `j` exclusive-ored with the ciphertext block before it, the all-zero IV before the first
(R260, R261). `b` is block `j` of the ciphertext, byte by byte. -/
def Obligations.CbcDecryptInvertsEncrypt : Prop :=
  ∀ (c : Config) (key : Block) (p : Bytes), c.Legal → p.length = c.D →
    cbcDecrypt c key (cbcEncrypt c key p) = p ∧
    ∀ ct : Bytes, ct.length = c.D → (cbcDecrypt c key ct).length = c.D ∧
      ∀ (j : Nat) (b : Block), j < c.D / 16 → (∀ i < 16, blockByte b i = ct.getD (16 * j + i) 0) →
        ∀ i < 16, (cbcDecrypt c key ct).getD (16 * j + i) 0 =
          blockByte (c.blockDec key b) i ^^^ (if j = 0 then 0 else ct.getD (16 * (j - 1) + i) 0)

/-- KeyParse (30_encoding.md R120), both forms: exactly which texts parse, and to which bytes. -/
def Obligations.KeyParseGrammar : Prop :=
  ∀ (text : List Char) (key : Block),
    let t := trimBoth isKeySpace text
    let items := splitAtChar ',' t
    (',' ∉ t → (keyParse text = some key ↔ t.length = 32 ∧ ∀ i < 16, ∃ h l, hexDigit (t.getD (2 * i) ' ') = some h ∧
      hexDigit (t.getD (2 * i + 1) ' ') = some l ∧ (blockByte key i).toNat = 16 * h + l)) ∧
    (',' ∈ t → (keyParse text = some key ↔ items.length = 16 ∧ ∀ i < 16, ∃ z x hi lo h l,
      trimBoth isItemSpace (items.getD i []) = [z, x, hi, lo] ∧ z = '0' ∧ (x = 'x' ∨ x = 'X') ∧
      hexDigit hi = some h ∧ hexDigit lo = some l ∧ (blockByte key i).toNat = 16 * h + l))

/-- The serialized record (30_encoding.md R115), with the result codes of R116. -/
def Obligations.SerializedRecordLayout : Prop :=
  ∀ r : Record, r.payload.length < 2 ^ 16 →
    let ws := recordWords r
    let w0 := ws.getD 0 0
    ws.length = 6 + (r.payload.length + 3) / 4 ∧
    w0.extractLsb' 28 4 = codeNumber r.code ∧ w0.extractLsb' 24 4 = r.sub ∧
    (w0.getLsbD 23 = true ↔ r.mode = .datagram) ∧ w0.extractLsb' 16 7 = 0 ∧
    (w0.extractLsb' 0 16).toNat = r.payload.length ∧
    ws.getD 1 0 = r.offset ∧ ws.getD 2 0 = r.cscore ∧ ws.getD 3 0 = r.dscore ∧ ws.getD 4 0 = r.icorr ∧
    ws.getD 5 0 = r.ocorr ∧
    ∀ i < 4 * ((r.payload.length + 3) / 4),
      (ws.getD (6 + i / 4) 0).extractLsb' (8 * (i % 4)) 8 = r.payload.getD i 0

/-- PUSH_SEQ expands to pushes that deliver exactly its bits, in order, and PUSH_BYTE delivers its byte
(30_encoding.md R107); `PUSH_BITS n, v` delivers the `n` bits of `v`, first bit most significant, and no other operands
assemble (R106). -/
def Obligations.AssembledPushesDeliverTheirBits : Prop :=
  (∀ s : Bits, (pushSeq s).flatMap rawBitsOf = s) ∧ (∀ b : Byte, rawBitsOf (pushByte b) = unpack [b]) ∧
    (∀ b : Bytes, (pushFrameBytes b).flatMap rawBitsOf = unpack b) ∧
    ∀ n v : Nat,
      (1 ≤ n ∧ n ≤ 16 ∧ v < 2 ^ n → ∃ i, asmPushBits n v = some i ∧ toInt (rawBitsOf i) = v ∧ (rawBitsOf i).length = n) ∧
      (¬(1 ≤ n ∧ n ≤ 16 ∧ v < 2 ^ n) → asmPushBits n v = none)
end

