-- ==== Sys2Proof/Laws/Bits.lean ====
section
/-! SUPPORT. The sequence primitives: lengths, and ToInt, Pack, Unpack and blocks as positional notation. -/

namespace Sys2Proof.Machine

@[simp] theorem slice_length {α : Type} (s : List α) (i n : Nat) : (slice s i n).length = min n (s.length - i) := by
  simp [slice]

/-! ### ToInt -/

/-- The fold of ToInt from a start value. -/
theorem toInt_fold (s : Bits) (a : Nat) :
    s.foldl (fun acc b => 2 * acc + bitNat b) a = a * 2 ^ s.length + toInt s := by
  induction s generalizing a with
  | nil => simp [toInt]
  | cons b rest ih =>
    have h := ih (bitNat b)
    simp only [toInt, List.foldl_cons, List.length_cons, pow_succ, Nat.mul_zero, Nat.zero_add] at *
    rw [ih, h]
    ring

/-- The earlier bit is the more significant (00_scope.md R13, 20_memory.md R77). -/
theorem toInt_cons (b : Bool) (s : Bits) : toInt (b :: s) = bitNat b * 2 ^ s.length + toInt s := by
  have h := toInt_fold s (bitNat b)
  simpa [toInt] using h

theorem toInt_nil : toInt [] = 0 := rfl

theorem bitNat_le (b : Bool) : bitNat b ≤ 1 := by
  cases b <;> decide

theorem toInt_lt (s : Bits) : toInt s < 2 ^ s.length := by
  induction s with
  | nil => decide
  | cons b rest ih =>
    rw [toInt_cons, List.length_cons, pow_succ]
    have := Nat.mul_le_mul_right (2 ^ rest.length) (bitNat_le b)
    omega

/-! ### Pack and Unpack -/

@[simp] theorem byteBits_length (b : Byte) : (byteBits b).length = 8 := rfl

@[simp] theorem unpack_length (b : Bytes) : (unpack b).length = 8 * b.length := by
  induction b with
  | nil => rfl
  | cons x rest ih => simp [unpack, ih]; omega

theorem pack_length (s : Bits) : (pack s).length = s.length / 8 := by
  fun_induction pack s with
  | case1 b0 b1 b2 b3 b4 b5 b6 b7 rest ih =>
    simp only [List.length_cons, ih]
    omega
  | case2 s h =>
    match s, h with
    | [], _ => simp
    | [_], _ => simp
    | [_, _], _ => simp
    | [_, _, _], _ => simp
    | [_, _, _, _], _ => simp
    | [_, _, _, _, _], _ => simp
    | [_, _, _, _, _, _], _ => simp
    | [_, _, _, _, _, _, _], _ => simp
    | b0 :: b1 :: b2 :: b3 :: b4 :: b5 :: b6 :: b7 :: rest, h => exact absurd rfl (h b0 b1 b2 b3 b4 b5 b6 b7 rest)

/-! ### Scores -/

theorem matchScore_le (width x y : Nat) : matchScore width x y ≤ width := by
  simp [matchScore]

/-! ### Blocks -/

@[simp] theorem bytesOfBlock_length (b : Block) : (bytesOfBlock b).length = 16 := by
  simp [bytesOfBlock]

end Sys2Proof.Machine
end

