-- ==== Sys2Proof/Laws/Decode.lean ====
section
/-! SUPPORT. The bits of fields and of encoded words, and what decoding can answer. -/

namespace Sys2Proof

/-! ### Bits of a field and of a placed value -/

theorem field_getLsbD (w : Word) (lo n i : Nat) :
    (field w lo n).getLsbD i = (decide (i < n) && w.getLsbD (lo + i)) := by
  simp [field]

theorem placed_getLsbD {n : Nat} (v : BitVec n) (lo i : Nat) :
    (placed v lo).getLsbD i = (decide (i < 32) && decide (lo ≤ i) && v.getLsbD (i - lo)) := by
  simp only [placed, BitVec.getLsbD_shiftLeft, BitVec.getLsbD_setWidth]
  by_cases h : i < 32
  · by_cases h' : lo ≤ i
    · have a : ¬ i < lo := by omega
      have b : i - lo < 32 := by omega
      simp [h, h', a, b]
    · have a : i < lo := by omega
      simp [h, h', a]
  · simp [h]

/-- Two fields are equal when their bits in the word are. -/
theorem field_eq_of_bits {w : Word} {lo n : Nat} {v : BitVec n} (h : ∀ i < n, w.getLsbD (lo + i) = v.getLsbD i) :
    field w lo n = v := by
  apply BitVec.eq_of_getLsbD_eq
  intro i hi
  rw [field_getLsbD, h i hi]
  simp [hi]

/-- The bits of a word under a field whose value is known. -/
theorem bits_of_field {w : Word} {lo n : Nat} {v : BitVec n} (h : field w lo n = v) {i : Nat} (h1 : lo ≤ i)
    (h2 : i < lo + n) : w.getLsbD i = v.getLsbD (i - lo) := by
  have e := congrArg (fun x => x.getLsbD (i - lo)) h
  have a : i - lo < n := by omega
  have b : lo + (i - lo) = i := by omega
  simp only [field_getLsbD, a, b, decide_true, Bool.true_and] at e
  exact e

/-- The bits of a reserved field that reads zero. -/
theorem bits_of_zero_field {w : Word} {lo n : Nat} (h : field w lo n = 0) {i : Nat} (h1 : lo ≤ i) (h2 : i < lo + n) :
    w.getLsbD i = false := by
  rw [bits_of_field h h1 h2]
  simp

theorem getLsbD_ofBool (b : Bool) (i : Nat) : (BitVec.ofBool b).getLsbD i = (decide (i = 0) && b) := by
  cases i with
  | zero => cases b <;> rfl
  | succ i => cases b <;> simp [BitVec.ofBool]

/-- A masked word is compared bit by bit. -/
theorem masked_eq {w m p : Word} (h : ∀ i < 32, (w.getLsbD i && m.getLsbD i) = p.getLsbD i) :
    RowPattern.matchesCode (.command p m) (.command w) = true := by
  simp only [RowPattern.matchesCode, beq_iff_eq]
  apply BitVec.eq_of_getLsbD_eq
  intro i hi
  rw [BitVec.getLsbD_and, h i hi]

/-! ### Reserved fields -/

theorem whenZero_ok {n : Nat} {op : BitVec 4} {r : BitVec n} {i j : Instr} (h : whenZero op r i = .ok j) :
    r = 0 ∧ i = j := by
  unfold whenZero at h
  split at h
  · exact ⟨‹_›, by simpa using h⟩
  · simp at h

theorem whenZero_error {n : Nat} {op : BitVec 4} {r : BitVec n} {i : Instr} {e : DecodeError}
    (h : whenZero op r i = .error e) : r ≠ 0 ∧ .reservedField op = e := by
  unfold whenZero at h
  split at h
  · simp at h
  · exact ⟨‹_›, by simpa using h⟩

theorem whenZero_of_eq {n : Nat} {op : BitVec 4} {r : BitVec n} {i : Instr} (h : r = 0) : whenZero op r i = .ok i := by
  simp [whenZero, h]

/-! ### The cases of the decoder -/

/-- Everything a command word can decode to, with the fields that say so. -/
theorem decodeCommand_ok {w : Word} {i : Instr} (h : decodeCommand w = .ok i) :
    (field w 28 4 = 0 ∧ field w 0 28 = 0 ∧ i = .nop) ∨
    (field w 28 4 = 1 ∧ field w 20 8 = 0 ∧ i = .pushBits (field w 16 4) (field w 0 16)) ∨
    (field w 28 4 = 2 ∧ field w 0 28 = 0 ∧ i = .scan) ∨
    (field w 28 4 = 3 ∧ field w 0 28 = 0 ∧ i = .dgram) ∨
    (field w 28 4 = 4 ∧ field w 0 28 = 0 ∧ i = .resetStream) ∨
    (field w 28 4 = 5 ∧ field w 1 27 = 0 ∧ i = .setMode (.ofBit (w.getLsbD 0))) ∨
    (field w 28 4 = 6 ∧ field w 8 20 = 0 ∧ i = .readReg (field w 0 8)) ∨
    (field w 28 4 = 7 ∧ field w 2 26 = 0 ∧ i = .clear (w.getLsbD 1) (w.getLsbD 0)) ∨
    (8 ≤ (field w 28 4).toNat ∧ i = .reservedOp (field w 28 4) (field w 0 28)) := by
  have named : ∀ {k : BitVec 4}, (field w 28 4).toNat = k.toNat → field w 28 4 = k := fun e => BitVec.eq_of_toNat_eq e
  simp only [decodeCommand] at h
  split at h <;> rename_i hop
  · exact .inl ⟨named hop, (whenZero_ok h).1, (whenZero_ok h).2.symm⟩
  · exact .inr (.inl ⟨named hop, (whenZero_ok h).1, (whenZero_ok h).2.symm⟩)
  · exact .inr (.inr (.inl ⟨named hop, (whenZero_ok h).1, (whenZero_ok h).2.symm⟩))
  · exact .inr (.inr (.inr (.inl ⟨named hop, (whenZero_ok h).1, (whenZero_ok h).2.symm⟩)))
  · exact .inr (.inr (.inr (.inr (.inl ⟨named hop, (whenZero_ok h).1, (whenZero_ok h).2.symm⟩))))
  · exact .inr (.inr (.inr (.inr (.inr (.inl ⟨named hop, (whenZero_ok h).1, (whenZero_ok h).2.symm⟩)))))
  · exact .inr (.inr (.inr (.inr (.inr (.inr (.inl ⟨named hop, (whenZero_ok h).1, (whenZero_ok h).2.symm⟩))))))
  · exact .inr (.inr (.inr (.inr (.inr (.inr (.inr (.inl ⟨named hop, (whenZero_ok h).1, (whenZero_ok h).2.symm⟩)))))))
  · simp only [Except.ok.injEq] at h
    have large : ∀ k : BitVec 4, k.toNat ≠ 0 → k.toNat ≠ 1 → k.toNat ≠ 2 → k.toNat ≠ 3 → k.toNat ≠ 4 → k.toNat ≠ 5 →
        k.toNat ≠ 6 → k.toNat ≠ 7 → 8 ≤ k.toNat := by intros; omega
    exact .inr (.inr (.inr (.inr (.inr (.inr (.inr (.inr
      ⟨large _ ‹_› ‹_› ‹_› ‹_› ‹_› ‹_› ‹_› ‹_›, h.symm⟩)))))))

/-- A word that is no command has a defined opcode and a non-zero reserved field (30_encoding.md R104). -/
theorem decodeCommand_error {w : Word} {e : DecodeError} (h : decodeCommand w = .error e) :
    e = .reservedField (field w 28 4) ∧
    ((field w 28 4 = 0 ∧ field w 0 28 ≠ 0) ∨ (field w 28 4 = 1 ∧ field w 20 8 ≠ 0) ∨
      (field w 28 4 = 2 ∧ field w 0 28 ≠ 0) ∨ (field w 28 4 = 3 ∧ field w 0 28 ≠ 0) ∨
      (field w 28 4 = 4 ∧ field w 0 28 ≠ 0) ∨ (field w 28 4 = 5 ∧ field w 1 27 ≠ 0) ∨
      (field w 28 4 = 6 ∧ field w 8 20 ≠ 0) ∨ (field w 28 4 = 7 ∧ field w 2 26 ≠ 0)) := by
  have named : ∀ {k : BitVec 4}, (field w 28 4).toNat = k.toNat → field w 28 4 = k := fun e => BitVec.eq_of_toNat_eq e
  simp only [decodeCommand] at h
  split at h <;> rename_i hop
  · exact ⟨(whenZero_error h).2.symm, .inl ⟨named hop, (whenZero_error h).1⟩⟩
  · exact ⟨(whenZero_error h).2.symm, .inr (.inl ⟨named hop, (whenZero_error h).1⟩)⟩
  · exact ⟨(whenZero_error h).2.symm, .inr (.inr (.inl ⟨named hop, (whenZero_error h).1⟩))⟩
  · exact ⟨(whenZero_error h).2.symm, .inr (.inr (.inr (.inl ⟨named hop, (whenZero_error h).1⟩)))⟩
  · exact ⟨(whenZero_error h).2.symm, .inr (.inr (.inr (.inr (.inl ⟨named hop, (whenZero_error h).1⟩))))⟩
  · exact ⟨(whenZero_error h).2.symm, .inr (.inr (.inr (.inr (.inr (.inl ⟨named hop, (whenZero_error h).1⟩)))))⟩
  · exact ⟨(whenZero_error h).2.symm, .inr (.inr (.inr (.inr (.inr (.inr (.inl ⟨named hop, (whenZero_error h).1⟩))))))⟩
  · exact ⟨(whenZero_error h).2.symm, .inr (.inr (.inr (.inr (.inr (.inr (.inr ⟨named hop, (whenZero_error h).1⟩))))))⟩
  · simp at h

/-- What a SEQ_STATE code decodes to. -/
theorem decode_seq_code (st : SeqState) :
    decode (.seq st.code) = match st.step with
      | some i => .ok i
      | none => .error .idleSelectsNoStep := by
  cases st <;> decide

/-- Everything a SEQ_STATE code can decode to. -/
theorem decode_seq_ok {k : BitVec 4} {i : Instr} (h : decode (.seq k) = .ok i) :
    ∃ st : SeqState, st.code = k ∧ st.step = some i := by
  have all : ∀ k : BitVec 4, ∀ st : SeqState, SeqState.ofCode k = some st → st.code = k := by
    intro k st
    cases st <;> revert k <;> decide
  simp only [decode, decodeSeq] at h
  split at h
  · simp at h
  · rename_i st hst
    split at h
    · simp at h
    · rename_i j hj
      simp only [Except.ok.injEq] at h
      exact ⟨st, all k st hst, by rw [hj, h]⟩

end Sys2Proof
end

