-- ==== Sys2Proof/Laws/State.lean ====
section
/-! SUPPORT. What each named update does to each field of State: one lemma a field. -/

namespace Sys2Proof.Machine

/-! ### setFlag -/

section
variable (f : StickyFlag) (s : State)

@[simp] theorem setFlag_seqState : (setFlag f s).seqState = s.seqState := rfl
@[simp] theorem setFlag_offset : (setFlag f s).offset = s.offset := rfl
@[simp] theorem setFlag_buflen : (setFlag f s).buflen = s.buflen := rfl
@[simp] theorem setFlag_prevBit : (setFlag f s).prevBit = s.prevBit := rfl
@[simp] theorem setFlag_key : (setFlag f s).key = s.key := rfl
@[simp] theorem setFlag_cfgCause : (setFlag f s).cfgCause = s.cfgCause := rfl
@[simp] theorem setFlag_flags : (setFlag f s).flags = setSticky f s.flags := rfl
@[simp] theorem setFlag_pass : (setFlag f s).pass = s.pass := rfl
@[simp] theorem setFlag_counters : (setFlag f s).counters = s.counters := rfl
@[simp] theorem setFlag_latches : (setFlag f s).latches = s.latches := rfl
@[simp] theorem setFlag_dec : (setFlag f s).dec = s.dec := rfl
@[simp] theorem setFlag_data : (setFlag f s).data = s.data := rfl
@[simp] theorem setFlag_buf : (setFlag f s).buf = s.buf := rfl
@[simp] theorem setFlag_mode : (setFlag f s).mode = s.mode := rfl
@[simp] theorem setFlag_results : (setFlag f s).results = s.results := rfl
@[simp] theorem setFlag_responses : (setFlag f s).responses = s.responses := rfl
@[simp] theorem setFlag_port : (setFlag f s).port = s.port := rfl
@[simp] theorem setFlag_turns : (setFlag f s).turns = s.turns := rfl

end

/-! ### refuseCommand -/

section
variable (s : State)

@[simp] theorem refuseCommand_seqState : (refuseCommand s).seqState = s.seqState := rfl
@[simp] theorem refuseCommand_offset : (refuseCommand s).offset = s.offset := rfl
@[simp] theorem refuseCommand_buflen : (refuseCommand s).buflen = s.buflen := rfl
@[simp] theorem refuseCommand_prevBit : (refuseCommand s).prevBit = s.prevBit := rfl
@[simp] theorem refuseCommand_key : (refuseCommand s).key = s.key := rfl
@[simp] theorem refuseCommand_cfgCause : (refuseCommand s).cfgCause = s.cfgCause := rfl
@[simp] theorem refuseCommand_flags : (refuseCommand s).flags = setSticky .cmdErr s.flags := rfl
@[simp] theorem refuseCommand_pass : (refuseCommand s).pass = s.pass := rfl
@[simp] theorem refuseCommand_counters : (refuseCommand s).counters = s.counters := rfl
@[simp] theorem refuseCommand_latches : (refuseCommand s).latches = s.latches := rfl
@[simp] theorem refuseCommand_dec : (refuseCommand s).dec = s.dec := rfl
@[simp] theorem refuseCommand_data : (refuseCommand s).data = s.data := rfl
@[simp] theorem refuseCommand_buf : (refuseCommand s).buf = s.buf := rfl
@[simp] theorem refuseCommand_mode : (refuseCommand s).mode = s.mode := rfl
@[simp] theorem refuseCommand_results : (refuseCommand s).results = s.results := rfl
@[simp] theorem refuseCommand_responses : (refuseCommand s).responses = s.responses := rfl
@[simp] theorem refuseCommand_port : (refuseCommand s).port = s.port := rfl
@[simp] theorem refuseCommand_turns : (refuseCommand s).turns = s.turns := rfl

end

/-! ### clearFlags -/

section
variable (s : State)

@[simp] theorem clearFlags_seqState : (clearFlags s).seqState = s.seqState := rfl
@[simp] theorem clearFlags_offset : (clearFlags s).offset = s.offset := rfl
@[simp] theorem clearFlags_buflen : (clearFlags s).buflen = s.buflen := rfl
@[simp] theorem clearFlags_prevBit : (clearFlags s).prevBit = s.prevBit := rfl
@[simp] theorem clearFlags_key : (clearFlags s).key = s.key := rfl
@[simp] theorem clearFlags_cfgCause : (clearFlags s).cfgCause = s.cfgCause := rfl
@[simp] theorem clearFlags_flags : (clearFlags s).flags = { ovf := false, cmdErr := false, dlenErr := false, lenClamp := false } := rfl
@[simp] theorem clearFlags_pass : (clearFlags s).pass = s.pass := rfl
@[simp] theorem clearFlags_counters : (clearFlags s).counters = s.counters := rfl
@[simp] theorem clearFlags_latches : (clearFlags s).latches = s.latches := rfl
@[simp] theorem clearFlags_dec : (clearFlags s).dec = s.dec := rfl
@[simp] theorem clearFlags_data : (clearFlags s).data = s.data := rfl
@[simp] theorem clearFlags_buf : (clearFlags s).buf = s.buf := rfl
@[simp] theorem clearFlags_mode : (clearFlags s).mode = s.mode := rfl
@[simp] theorem clearFlags_results : (clearFlags s).results = s.results := rfl
@[simp] theorem clearFlags_responses : (clearFlags s).responses = s.responses := rfl
@[simp] theorem clearFlags_port : (clearFlags s).port = s.port := rfl
@[simp] theorem clearFlags_turns : (clearFlags s).turns = s.turns := rfl

end

/-! ### clearPassFlags -/

section
variable (s : State)

@[simp] theorem clearPassFlags_seqState : (clearPassFlags s).seqState = s.seqState := rfl
@[simp] theorem clearPassFlags_offset : (clearPassFlags s).offset = s.offset := rfl
@[simp] theorem clearPassFlags_buflen : (clearPassFlags s).buflen = s.buflen := rfl
@[simp] theorem clearPassFlags_prevBit : (clearPassFlags s).prevBit = s.prevBit := rfl
@[simp] theorem clearPassFlags_key : (clearPassFlags s).key = s.key := rfl
@[simp] theorem clearPassFlags_cfgCause : (clearPassFlags s).cfgCause = s.cfgCause := rfl
@[simp] theorem clearPassFlags_flags : (clearPassFlags s).flags = s.flags := rfl
@[simp] theorem clearPassFlags_pass : (clearPassFlags s).pass = { eval := false, candSeen := false } := rfl
@[simp] theorem clearPassFlags_counters : (clearPassFlags s).counters = s.counters := rfl
@[simp] theorem clearPassFlags_latches : (clearPassFlags s).latches = s.latches := rfl
@[simp] theorem clearPassFlags_dec : (clearPassFlags s).dec = s.dec := rfl
@[simp] theorem clearPassFlags_data : (clearPassFlags s).data = s.data := rfl
@[simp] theorem clearPassFlags_buf : (clearPassFlags s).buf = s.buf := rfl
@[simp] theorem clearPassFlags_mode : (clearPassFlags s).mode = s.mode := rfl
@[simp] theorem clearPassFlags_results : (clearPassFlags s).results = s.results := rfl
@[simp] theorem clearPassFlags_responses : (clearPassFlags s).responses = s.responses := rfl
@[simp] theorem clearPassFlags_port : (clearPassFlags s).port = s.port := rfl
@[simp] theorem clearPassFlags_turns : (clearPassFlags s).turns = s.turns := rfl

end

/-! ### bufAppend -/

section
variable (b : Bool) (s : State)

@[simp] theorem bufAppend_seqState : (bufAppend b s).seqState = s.seqState := rfl
@[simp] theorem bufAppend_offset : (bufAppend b s).offset = s.offset := rfl
@[simp] theorem bufAppend_buflen : (bufAppend b s).buflen = s.buflen + 1 := rfl
@[simp] theorem bufAppend_prevBit : (bufAppend b s).prevBit = s.prevBit := rfl
@[simp] theorem bufAppend_key : (bufAppend b s).key = s.key := rfl
@[simp] theorem bufAppend_cfgCause : (bufAppend b s).cfgCause = s.cfgCause := rfl
@[simp] theorem bufAppend_flags : (bufAppend b s).flags = s.flags := rfl
@[simp] theorem bufAppend_pass : (bufAppend b s).pass = s.pass := rfl
@[simp] theorem bufAppend_counters : (bufAppend b s).counters = s.counters := rfl
@[simp] theorem bufAppend_latches : (bufAppend b s).latches = s.latches := rfl
@[simp] theorem bufAppend_dec : (bufAppend b s).dec = s.dec := rfl
@[simp] theorem bufAppend_data : (bufAppend b s).data = s.data := rfl
@[simp] theorem bufAppend_buf : (bufAppend b s).buf = s.buf ++ [b] := rfl
@[simp] theorem bufAppend_mode : (bufAppend b s).mode = s.mode := rfl
@[simp] theorem bufAppend_results : (bufAppend b s).results = s.results := rfl
@[simp] theorem bufAppend_responses : (bufAppend b s).responses = s.responses := rfl
@[simp] theorem bufAppend_port : (bufAppend b s).port = s.port := rfl
@[simp] theorem bufAppend_turns : (bufAppend b s).turns = s.turns := rfl

end

/-! ### streamReset -/

section
variable (s : State)

@[simp] theorem streamReset_seqState : (streamReset s).seqState = s.seqState := rfl
@[simp] theorem streamReset_offset : (streamReset s).offset = 0 := rfl
@[simp] theorem streamReset_buflen : (streamReset s).buflen = 0 := rfl
@[simp] theorem streamReset_prevBit : (streamReset s).prevBit = false := rfl
@[simp] theorem streamReset_key : (streamReset s).key = s.key := rfl
@[simp] theorem streamReset_cfgCause : (streamReset s).cfgCause = s.cfgCause := rfl
@[simp] theorem streamReset_flags : (streamReset s).flags = s.flags := rfl
@[simp] theorem streamReset_pass : (streamReset s).pass = { eval := false, candSeen := false } := rfl
@[simp] theorem streamReset_counters : (streamReset s).counters = s.counters := rfl
@[simp] theorem streamReset_latches : (streamReset s).latches = s.latches := rfl
@[simp] theorem streamReset_dec : (streamReset s).dec = s.dec := rfl
@[simp] theorem streamReset_data : (streamReset s).data = s.data := rfl
@[simp] theorem streamReset_buf : (streamReset s).buf = [] := rfl
@[simp] theorem streamReset_mode : (streamReset s).mode = s.mode := rfl
@[simp] theorem streamReset_results : (streamReset s).results = s.results := rfl
@[simp] theorem streamReset_responses : (streamReset s).responses = s.responses := rfl
@[simp] theorem streamReset_port : (streamReset s).port = s.port := rfl
@[simp] theorem streamReset_turns : (streamReset s).turns = s.turns := rfl

end

/-! ### emit -/

section
variable (r : Record) (s : State)

@[simp] theorem emit_seqState : (emit r s).seqState = s.seqState := rfl
@[simp] theorem emit_offset : (emit r s).offset = s.offset := rfl
@[simp] theorem emit_buflen : (emit r s).buflen = s.buflen := rfl
@[simp] theorem emit_prevBit : (emit r s).prevBit = s.prevBit := rfl
@[simp] theorem emit_key : (emit r s).key = s.key := rfl
@[simp] theorem emit_cfgCause : (emit r s).cfgCause = s.cfgCause := rfl
@[simp] theorem emit_flags : (emit r s).flags = s.flags := rfl
@[simp] theorem emit_pass : (emit r s).pass = s.pass := rfl
@[simp] theorem emit_counters : (emit r s).counters = s.counters := rfl
@[simp] theorem emit_latches : (emit r s).latches = s.latches := rfl
@[simp] theorem emit_dec : (emit r s).dec = s.dec := rfl
@[simp] theorem emit_data : (emit r s).data = s.data := rfl
@[simp] theorem emit_buf : (emit r s).buf = s.buf := rfl
@[simp] theorem emit_mode : (emit r s).mode = s.mode := rfl
@[simp] theorem emit_results : (emit r s).results = s.results ++ [r] := rfl
@[simp] theorem emit_responses : (emit r s).responses = s.responses := rfl
@[simp] theorem emit_port : (emit r s).port = s.port := rfl
@[simp] theorem emit_turns : (emit r s).turns = s.turns := rfl

end

/-! ### respond -/

section
variable (w : Word) (s : State)

@[simp] theorem respond_seqState : (respond w s).seqState = s.seqState := rfl
@[simp] theorem respond_offset : (respond w s).offset = s.offset := rfl
@[simp] theorem respond_buflen : (respond w s).buflen = s.buflen := rfl
@[simp] theorem respond_prevBit : (respond w s).prevBit = s.prevBit := rfl
@[simp] theorem respond_key : (respond w s).key = s.key := rfl
@[simp] theorem respond_cfgCause : (respond w s).cfgCause = s.cfgCause := rfl
@[simp] theorem respond_flags : (respond w s).flags = s.flags := rfl
@[simp] theorem respond_pass : (respond w s).pass = s.pass := rfl
@[simp] theorem respond_counters : (respond w s).counters = s.counters := rfl
@[simp] theorem respond_latches : (respond w s).latches = s.latches := rfl
@[simp] theorem respond_dec : (respond w s).dec = s.dec := rfl
@[simp] theorem respond_data : (respond w s).data = s.data := rfl
@[simp] theorem respond_buf : (respond w s).buf = s.buf := rfl
@[simp] theorem respond_mode : (respond w s).mode = s.mode := rfl
@[simp] theorem respond_results : (respond w s).results = s.results := rfl
@[simp] theorem respond_responses : (respond w s).responses = s.responses ++ [w] := rfl
@[simp] theorem respond_port : (respond w s).port = s.port := rfl
@[simp] theorem respond_turns : (respond w s).turns = s.turns := rfl

end

/-! ### takeResult -/

section
variable (s : State)

@[simp] theorem takeResult_seqState : (takeResult s).seqState = s.seqState := rfl
@[simp] theorem takeResult_offset : (takeResult s).offset = s.offset := rfl
@[simp] theorem takeResult_buflen : (takeResult s).buflen = s.buflen := rfl
@[simp] theorem takeResult_prevBit : (takeResult s).prevBit = s.prevBit := rfl
@[simp] theorem takeResult_key : (takeResult s).key = s.key := rfl
@[simp] theorem takeResult_cfgCause : (takeResult s).cfgCause = s.cfgCause := rfl
@[simp] theorem takeResult_flags : (takeResult s).flags = s.flags := rfl
@[simp] theorem takeResult_pass : (takeResult s).pass = s.pass := rfl
@[simp] theorem takeResult_counters : (takeResult s).counters = s.counters := rfl
@[simp] theorem takeResult_latches : (takeResult s).latches = s.latches := rfl
@[simp] theorem takeResult_dec : (takeResult s).dec = s.dec := rfl
@[simp] theorem takeResult_data : (takeResult s).data = s.data := rfl
@[simp] theorem takeResult_buf : (takeResult s).buf = s.buf := rfl
@[simp] theorem takeResult_mode : (takeResult s).mode = s.mode := rfl
@[simp] theorem takeResult_results : (takeResult s).results = s.results.drop 1 := rfl
@[simp] theorem takeResult_responses : (takeResult s).responses = s.responses := rfl
@[simp] theorem takeResult_port : (takeResult s).port = s.port := rfl
@[simp] theorem takeResult_turns : (takeResult s).turns = s.turns := rfl

end

/-! ### takeResponse -/

section
variable (s : State)

@[simp] theorem takeResponse_seqState : (takeResponse s).seqState = s.seqState := rfl
@[simp] theorem takeResponse_offset : (takeResponse s).offset = s.offset := rfl
@[simp] theorem takeResponse_buflen : (takeResponse s).buflen = s.buflen := rfl
@[simp] theorem takeResponse_prevBit : (takeResponse s).prevBit = s.prevBit := rfl
@[simp] theorem takeResponse_key : (takeResponse s).key = s.key := rfl
@[simp] theorem takeResponse_cfgCause : (takeResponse s).cfgCause = s.cfgCause := rfl
@[simp] theorem takeResponse_flags : (takeResponse s).flags = s.flags := rfl
@[simp] theorem takeResponse_pass : (takeResponse s).pass = s.pass := rfl
@[simp] theorem takeResponse_counters : (takeResponse s).counters = s.counters := rfl
@[simp] theorem takeResponse_latches : (takeResponse s).latches = s.latches := rfl
@[simp] theorem takeResponse_dec : (takeResponse s).dec = s.dec := rfl
@[simp] theorem takeResponse_data : (takeResponse s).data = s.data := rfl
@[simp] theorem takeResponse_buf : (takeResponse s).buf = s.buf := rfl
@[simp] theorem takeResponse_mode : (takeResponse s).mode = s.mode := rfl
@[simp] theorem takeResponse_results : (takeResponse s).results = s.results := rfl
@[simp] theorem takeResponse_responses : (takeResponse s).responses = s.responses.drop 1 := rfl
@[simp] theorem takeResponse_port : (takeResponse s).port = s.port := rfl
@[simp] theorem takeResponse_turns : (takeResponse s).turns = s.turns := rfl

end

/-! ### report -/

section
variable (code : ResultCode) (sub : BitVec 4) (p : Bytes) (s : State)

@[simp] theorem report_seqState : (report code sub p s).seqState = s.seqState := rfl
@[simp] theorem report_offset : (report code sub p s).offset = s.offset := rfl
@[simp] theorem report_buflen : (report code sub p s).buflen = s.buflen := rfl
@[simp] theorem report_prevBit : (report code sub p s).prevBit = s.prevBit := rfl
@[simp] theorem report_key : (report code sub p s).key = s.key := rfl
@[simp] theorem report_cfgCause : (report code sub p s).cfgCause = s.cfgCause := rfl
@[simp] theorem report_flags : (report code sub p s).flags = s.flags := rfl
@[simp] theorem report_pass : (report code sub p s).pass = s.pass := rfl
@[simp] theorem report_counters : (report code sub p s).counters = countResult code s.counters := rfl
@[simp] theorem report_latches : (report code sub p s).latches = s.latches := rfl
@[simp] theorem report_dec : (report code sub p s).dec = s.dec := rfl
@[simp] theorem report_data : (report code sub p s).data = s.data := rfl
@[simp] theorem report_buf : (report code sub p s).buf = s.buf := rfl
@[simp] theorem report_mode : (report code sub p s).mode = s.mode := rfl
@[simp] theorem report_results : (report code sub p s).results = s.results ++ [recordOf code sub p s] := rfl
@[simp] theorem report_responses : (report code sub p s).responses = s.responses := rfl
@[simp] theorem report_port : (report code sub p s).port = s.port := rfl
@[simp] theorem report_turns : (report code sub p s).turns = s.turns := rfl

end

/-! ### clearCounts -/

section
variable (s : State)

@[simp] theorem clearCounts_seqState : (clearCounts s).seqState = s.seqState := rfl
@[simp] theorem clearCounts_offset : (clearCounts s).offset = s.offset := rfl
@[simp] theorem clearCounts_buflen : (clearCounts s).buflen = s.buflen := rfl
@[simp] theorem clearCounts_prevBit : (clearCounts s).prevBit = s.prevBit := rfl
@[simp] theorem clearCounts_key : (clearCounts s).key = s.key := rfl
@[simp] theorem clearCounts_cfgCause : (clearCounts s).cfgCause = s.cfgCause := rfl
@[simp] theorem clearCounts_flags : (clearCounts s).flags = s.flags := rfl
@[simp] theorem clearCounts_pass : (clearCounts s).pass = s.pass := rfl
@[simp] theorem clearCounts_counters : (clearCounts s).counters = { ok := 0, sync := 0, inner := 0, outer := 0, integ := 0 } := rfl
@[simp] theorem clearCounts_latches : (clearCounts s).latches = { cscore := 0, dscore := 0, icorr := 0, ocorr := 0 } := rfl
@[simp] theorem clearCounts_dec : (clearCounts s).dec = s.dec := rfl
@[simp] theorem clearCounts_data : (clearCounts s).data = s.data := rfl
@[simp] theorem clearCounts_buf : (clearCounts s).buf = s.buf := rfl
@[simp] theorem clearCounts_mode : (clearCounts s).mode = s.mode := rfl
@[simp] theorem clearCounts_results : (clearCounts s).results = s.results := rfl
@[simp] theorem clearCounts_responses : (clearCounts s).responses = s.responses := rfl
@[simp] theorem clearCounts_port : (clearCounts s).port = s.port := rfl
@[simp] theorem clearCounts_turns : (clearCounts s).turns = s.turns := rfl

end

/-! ### attemptStart -/

section
variable (s : State)

@[simp] theorem attemptStart_seqState : (attemptStart s).seqState = .inner := rfl
@[simp] theorem attemptStart_offset : (attemptStart s).offset = s.offset := rfl
@[simp] theorem attemptStart_buflen : (attemptStart s).buflen = s.buflen := rfl
@[simp] theorem attemptStart_prevBit : (attemptStart s).prevBit = s.prevBit := rfl
@[simp] theorem attemptStart_key : (attemptStart s).key = s.key := rfl
@[simp] theorem attemptStart_cfgCause : (attemptStart s).cfgCause = s.cfgCause := rfl
@[simp] theorem attemptStart_flags : (attemptStart s).flags = s.flags := rfl
@[simp] theorem attemptStart_pass : (attemptStart s).pass = s.pass := rfl
@[simp] theorem attemptStart_counters : (attemptStart s).counters = s.counters := rfl
@[simp] theorem attemptStart_latches : (attemptStart s).latches = { cscore := s.latches.cscore, dscore := 0, icorr := 0, ocorr := 0 } := rfl
@[simp] theorem attemptStart_dec : (attemptStart s).dec = s.dec := rfl
@[simp] theorem attemptStart_data : (attemptStart s).data = s.data := rfl
@[simp] theorem attemptStart_buf : (attemptStart s).buf = s.buf := rfl
@[simp] theorem attemptStart_mode : (attemptStart s).mode = s.mode := rfl
@[simp] theorem attemptStart_results : (attemptStart s).results = s.results := rfl
@[simp] theorem attemptStart_responses : (attemptStart s).responses = s.responses := rfl
@[simp] theorem attemptStart_port : (attemptStart s).port = s.port := rfl
@[simp] theorem attemptStart_turns : (attemptStart s).turns = s.turns := rfl

end

/-! ### datagramStart -/

section
variable (s : State)

@[simp] theorem datagramStart_seqState : (datagramStart s).seqState = .inner := rfl
@[simp] theorem datagramStart_offset : (datagramStart s).offset = s.offset := rfl
@[simp] theorem datagramStart_buflen : (datagramStart s).buflen = s.buflen := rfl
@[simp] theorem datagramStart_prevBit : (datagramStart s).prevBit = s.prevBit := rfl
@[simp] theorem datagramStart_key : (datagramStart s).key = s.key := rfl
@[simp] theorem datagramStart_cfgCause : (datagramStart s).cfgCause = s.cfgCause := rfl
@[simp] theorem datagramStart_flags : (datagramStart s).flags = s.flags := rfl
@[simp] theorem datagramStart_pass : (datagramStart s).pass = s.pass := rfl
@[simp] theorem datagramStart_counters : (datagramStart s).counters = s.counters := rfl
@[simp] theorem datagramStart_latches : (datagramStart s).latches = { cscore := 0, dscore := 0, icorr := 0, ocorr := 0 } := rfl
@[simp] theorem datagramStart_dec : (datagramStart s).dec = s.dec := rfl
@[simp] theorem datagramStart_data : (datagramStart s).data = s.data := rfl
@[simp] theorem datagramStart_buf : (datagramStart s).buf = s.buf := rfl
@[simp] theorem datagramStart_mode : (datagramStart s).mode = s.mode := rfl
@[simp] theorem datagramStart_results : (datagramStart s).results = s.results := rfl
@[simp] theorem datagramStart_responses : (datagramStart s).responses = s.responses := rfl
@[simp] theorem datagramStart_port : (datagramStart s).port = s.port := rfl
@[simp] theorem datagramStart_turns : (datagramStart s).turns = s.turns := rfl

end

/-! ### datagramEnd -/

section
variable (s : State)

@[simp] theorem datagramEnd_seqState : (datagramEnd s).seqState = .idle := rfl
@[simp] theorem datagramEnd_offset : (datagramEnd s).offset = 0 := rfl
@[simp] theorem datagramEnd_buflen : (datagramEnd s).buflen = 0 := rfl
@[simp] theorem datagramEnd_prevBit : (datagramEnd s).prevBit = false := rfl
@[simp] theorem datagramEnd_key : (datagramEnd s).key = s.key := rfl
@[simp] theorem datagramEnd_cfgCause : (datagramEnd s).cfgCause = s.cfgCause := rfl
@[simp] theorem datagramEnd_flags : (datagramEnd s).flags = s.flags := rfl
@[simp] theorem datagramEnd_pass : (datagramEnd s).pass = { eval := false, candSeen := false } := rfl
@[simp] theorem datagramEnd_counters : (datagramEnd s).counters = s.counters := rfl
@[simp] theorem datagramEnd_latches : (datagramEnd s).latches = s.latches := rfl
@[simp] theorem datagramEnd_dec : (datagramEnd s).dec = s.dec := rfl
@[simp] theorem datagramEnd_data : (datagramEnd s).data = s.data := rfl
@[simp] theorem datagramEnd_buf : (datagramEnd s).buf = [] := rfl
@[simp] theorem datagramEnd_mode : (datagramEnd s).mode = s.mode := rfl
@[simp] theorem datagramEnd_results : (datagramEnd s).results = s.results := rfl
@[simp] theorem datagramEnd_responses : (datagramEnd s).responses = s.responses := rfl
@[simp] theorem datagramEnd_port : (datagramEnd s).port = s.port := rfl
@[simp] theorem datagramEnd_turns : (datagramEnd s).turns = s.turns := rfl

end

/-! ### advance -/

section
variable (n : Nat) (s : State)

@[simp] theorem advance_seqState : (advance n s).seqState = .scanning := rfl
@[simp] theorem advance_offset : (advance n s).offset = s.offset + BitVec.ofNat 32 n := rfl
@[simp] theorem advance_buflen : (advance n s).buflen = s.buflen := rfl
@[simp] theorem advance_prevBit : (advance n s).prevBit = s.prevBit := rfl
@[simp] theorem advance_key : (advance n s).key = s.key := rfl
@[simp] theorem advance_cfgCause : (advance n s).cfgCause = s.cfgCause := rfl
@[simp] theorem advance_flags : (advance n s).flags = s.flags := rfl
@[simp] theorem advance_pass : (advance n s).pass = s.pass := rfl
@[simp] theorem advance_counters : (advance n s).counters = s.counters := rfl
@[simp] theorem advance_latches : (advance n s).latches = s.latches := rfl
@[simp] theorem advance_dec : (advance n s).dec = s.dec := rfl
@[simp] theorem advance_data : (advance n s).data = s.data := rfl
@[simp] theorem advance_buf : (advance n s).buf = s.buf := rfl
@[simp] theorem advance_mode : (advance n s).mode = s.mode := rfl
@[simp] theorem advance_results : (advance n s).results = s.results := rfl
@[simp] theorem advance_responses : (advance n s).responses = s.responses := rfl
@[simp] theorem advance_port : (advance n s).port = s.port := rfl
@[simp] theorem advance_turns : (advance n s).turns = s.turns := rfl

end

/-! ### The parts of a record update -/

section
variable (f : StickyFlag) (g : StickyFlags)

@[simp] theorem setSticky_ovf : (setSticky f g).ovf = (decide (f = .ovf) || g.ovf) := by cases f <;> rfl
@[simp] theorem setSticky_cmdErr : (setSticky f g).cmdErr = (decide (f = .cmdErr) || g.cmdErr) := by cases f <;> rfl
@[simp] theorem setSticky_dlenErr : (setSticky f g).dlenErr = (decide (f = .dlenErr) || g.dlenErr) := by cases f <;> rfl
@[simp] theorem setSticky_lenClamp : (setSticky f g).lenClamp = (decide (f = .lenClamp) || g.lenClamp) := by
  cases f <;> rfl

end

section
variable (code : ResultCode) (sub : BitVec 4) (p : Bytes) (s : State)

@[simp] theorem recordOf_code : (recordOf code sub p s).code = code := rfl
@[simp] theorem recordOf_sub : (recordOf code sub p s).sub = sub := rfl
@[simp] theorem recordOf_mode : (recordOf code sub p s).mode = s.mode := rfl
@[simp] theorem recordOf_offset : (recordOf code sub p s).offset = s.offset := rfl
@[simp] theorem recordOf_cscore : (recordOf code sub p s).cscore = s.latches.cscore := rfl
@[simp] theorem recordOf_dscore : (recordOf code sub p s).dscore = s.latches.dscore := rfl
@[simp] theorem recordOf_icorr : (recordOf code sub p s).icorr = s.latches.icorr := rfl
@[simp] theorem recordOf_ocorr : (recordOf code sub p s).ocorr = s.latches.ocorr := rfl
@[simp] theorem recordOf_payload : (recordOf code sub p s).payload = p := rfl

end

end Sys2Proof.Machine
end

