-- ==== Sys2Proof/Laws/Ops.lean ====
section
/-! SUPPORT. What each shared operation can do, once. -/

namespace Sys2Proof.Machine

/-! ### Pushing bits -/

@[simp] theorem diffDecodeAll_nil (c : Config) (m : Mode) (prev : Bool) : diffDecodeAll c m prev [] = ([], prev) := rfl

theorem diffDecodeAll_cons (c : Config) (m : Mode) (prev r : Bool) (rest : Bits) :
    diffDecodeAll c m prev (r :: rest) =
      ((diffDecode c m prev r).1 :: (diffDecodeAll c m (diffDecode c m prev r).2 rest).1,
        (diffDecodeAll c m (diffDecode c m prev r).2 rest).2) := rfl

@[simp] theorem diffDecodeAll_length (c : Config) (m : Mode) (prev : Bool) (bits : Bits) :
    (diffDecodeAll c m prev bits).1.length = bits.length := by
  induction bits generalizing prev with
  | nil => rfl
  | cons r rest ih => simp [diffDecodeAll_cons, ih]

/-- The carry between two parts of a raw sequence is PREV_BIT alone (41_diff_decoder.md R182). -/
theorem diffDecodeAll_append (c : Config) (m : Mode) (prev : Bool) (a b : Bits) :
    diffDecodeAll c m prev (a ++ b) =
      ((diffDecodeAll c m prev a).1 ++ (diffDecodeAll c m (diffDecodeAll c m prev a).2 b).1,
        (diffDecodeAll c m (diffDecodeAll c m prev a).2 b).2) := by
  induction a generalizing prev with
  | nil => simp
  | cons r rest ih => simp [diffDecodeAll_cons, ih]

/-- Where decoding does not apply the bits and PREV_BIT pass through (41_diff_decoder.md R180). -/
theorem diffDecodeAll_raw {c : Config} {m : Mode} (h : diffApplies c m = false) (prev : Bool) (bits : Bits) :
    diffDecodeAll c m prev bits = (bits, prev) := by
  induction bits generalizing prev with
  | nil => rfl
  | cons r rest ih => simp [diffDecodeAll_cons, diffDecode, h, ih]

/-- The whole effect of a push on the state (40_host_commands.md R141). -/
theorem pushRaw_eq (c : Config) (bits : Bits) (s : State) :
    pushRaw c bits s = { s with
      buf := s.buf ++ (diffDecodeAll c s.mode s.prevBit bits).1
      buflen := s.buflen + BitVec.ofNat 32 bits.length
      prevBit := (diffDecodeAll c s.mode s.prevBit bits).2 } := by
  induction bits generalizing s with
  | nil => simp [pushRaw]
  | cons r rest ih =>
    have count : s.buflen + 1 + BitVec.ofNat 32 rest.length = s.buflen + BitVec.ofNat 32 (r :: rest).length := by
      rw [List.length_cons, Nat.add_comm, BitVec.ofNat_add, ← BitVec.add_assoc]
      rfl
    rw [← count]
    simp [pushRaw, pushBit, bufAppend, diffDecodeAll_cons, ih]

@[simp] theorem pushedBits_length (nm1 : BitVec 4) (data : BitVec 16) :
    (pushedBits nm1 data).length = nm1.toNat + 1 := by
  simp [pushedBits, pushCount]

theorem pushFits_iff {c : Config} {n : Nat} {s : State} :
    pushFits c n s = true ↔ remaining s + n ≤ c.BUF_CAP ∧ s.buflen.toNat + n ≤ 2 ^ 32 - 1 := by
  simp [pushFits]

/-- BUFLEN after a push that fits. -/
theorem buflen_add {c : Config} {n : Nat} {s : State} (h : pushFits c n s = true) :
    (s.buflen + BitVec.ofNat 32 n).toNat = s.buflen.toNat + n := by
  have h2 := (pushFits_iff.1 h).2
  rw [BitVec.toNat_add, BitVec.toNat_ofNat]
  omega

/-! ### The form of the buffer -/

theorem reset_memory_wf (c : Config) : Memory.wf (State.resetAt c) := rfl

theorem streamReset_memory_wf (s : State) : Memory.wf (streamReset s) := rfl

/-- A push that fits keeps the form. -/
theorem pushRaw_memory_wf {c : Config} {bits : Bits} {s : State} (h : Memory.wf s)
    (fits : pushFits c bits.length s = true) : Memory.wf (pushRaw c bits s) := by
  simp only [Memory.wf] at h ⊢
  simp [pushRaw_eq, buflen_add fits, h]

theorem bufAppend_memory_wf {b : Bool} {s : State} (h : Memory.wf s) (room : s.buflen.toNat < 2 ^ 32 - 1) :
    Memory.wf (bufAppend b s) := by
  simp only [Memory.wf, bufAppend_buf, bufAppend_buflen, List.length_append, List.length_singleton] at h ⊢
  rw [BitVec.toNat_add, h]
  have one : BitVec.toNat (1 : Word) = 1 := rfl
  rw [one]
  omega

/-- A read inside the bound gives the addressed bits (20_memory.md R72). -/
theorem bufRead_ok {s : State} {i n : Nat} (h1 : s.offset.toNat ≤ i) (h2 : i + n ≤ s.buflen.toNat) :
    bufRead s i n = .ok (slice s.buf i n) := by
  simp [bufRead, h1, h2]

theorem bufRead_error {s : State} {i n : Nat} (h : ¬ (s.offset.toNat ≤ i ∧ i + n ≤ s.buflen.toNat)) :
    bufRead s i n = .error .bufReadOutOfRange := by
  simp only [bufRead, h, if_false]

/-- A bit read back after an append is the bit appended; every earlier bit reads as before (20_memory.md R73). -/
theorem slice_append_old {α : Type} (a b : List α) {i n : Nat} (h : i + n ≤ a.length) :
    slice (a ++ b) i n = slice a i n := by
  simp only [slice]
  rw [List.drop_append_of_le_length (by omega), List.take_append_of_le_length (by simp; omega)]

/-! ### Ends of attempts -/

theorem finish_streaming {n : Nat} {s : State} (h : s.mode = .streaming) : finish n s = advance n s := by
  simp [finish, h]

theorem finish_datagram {n : Nat} {s : State} (h : s.mode = .datagram) : finish n s = datagramEnd s := by
  simp [finish, h]

/-- An attempt ends in SCANNING or IDLE, by the mode. -/
theorem finish_seqState (n : Nat) (s : State) :
    (finish n s).seqState = (match s.mode with
      | .streaming => .scanning
      | .datagram => .idle) := by
  cases h : s.mode <;> simp [finish, h]

section
variable (n : Nat) (s : State)

@[simp] theorem finish_key : (finish n s).key = s.key := by cases h : s.mode <;> simp [finish, h]
@[simp] theorem finish_cfgCause : (finish n s).cfgCause = s.cfgCause := by cases h : s.mode <;> simp [finish, h]
@[simp] theorem finish_flags : (finish n s).flags = s.flags := by cases h : s.mode <;> simp [finish, h]
@[simp] theorem finish_counters : (finish n s).counters = s.counters := by cases h : s.mode <;> simp [finish, h]
@[simp] theorem finish_latches : (finish n s).latches = s.latches := by cases h : s.mode <;> simp [finish, h]
@[simp] theorem finish_dec : (finish n s).dec = s.dec := by cases h : s.mode <;> simp [finish, h]
@[simp] theorem finish_data : (finish n s).data = s.data := by cases h : s.mode <;> simp [finish, h]
@[simp] theorem finish_mode : (finish n s).mode = s.mode := by cases h : s.mode <;> simp [finish, h]
@[simp] theorem finish_results : (finish n s).results = s.results := by cases h : s.mode <;> simp [finish, h]
@[simp] theorem finish_responses : (finish n s).responses = s.responses := by cases h : s.mode <;> simp [finish, h]
@[simp] theorem finish_port : (finish n s).port = s.port := by cases h : s.mode <;> simp [finish, h]
@[simp] theorem finish_turns : (finish n s).turns = s.turns := by cases h : s.mode <;> simp [finish, h]

end

/-- OFFSET after an advance that stays inside the buffer. -/
theorem offset_add {n : Nat} {s : State} (h : s.offset.toNat + n ≤ s.buflen.toNat) :
    (s.offset + BitVec.ofNat 32 n).toNat = s.offset.toNat + n := by
  have := s.buflen.isLt
  rw [BitVec.toNat_add, BitVec.toNat_ofNat]
  omega

/-! ### The end of a pass -/

/-- The record of a pass in which windows were evaluated and none passed (46_resync_sequencer.md R283). -/
theorem passEnd_emits {s : State} (h1 : s.pass.eval = true) (h2 : s.pass.candSeen = false) :
    passEnd s = { report .syncNotFound 0 [] s with seqState := .idle } := by
  simp [passEnd, h1, h2]

theorem passEnd_silent {s : State} (h : ¬ (s.pass.eval = true ∧ s.pass.candSeen = false)) :
    passEnd s = { s with seqState := .idle } := by
  have e : (s.pass.eval && !s.pass.candSeen) = false := by
    cases h1 : s.pass.eval <;> cases h2 : s.pass.candSeen <;> simp_all
  simp [passEnd, e]

/-! ### Commands in CFG_ERROR -/

theorem unlessCfgError_refuses {act : State → State} {s : State} (h : s.seqState = .cfgError) :
    unlessCfgError act s = refuseCommand s := by
  simp [unlessCfgError, h]

theorem unlessCfgError_acts {act : State → State} {s : State} (h : s.seqState ≠ .cfgError) :
    unlessCfgError act s = act s := by
  simp [unlessCfgError, h]

/-! ### KEY as an operand -/

theorem heldKey_held {c : Config} {s : State} {key : Block} (h : s.key = some key) : heldKey c s = key := by
  simp [heldKey, h]

theorem heldKey_unheld {c : Config} {s : State} (h : s.key = none) : heldKey c s = c.unheldKey := by
  simp [heldKey, h]

/-! ### The modelling boundary -/

theorem everyNumber_iff {n : Nat} {p : Nat → Bool} : everyNumber n p = true ↔ ∀ x < 2 ^ n, p x = true := by
  induction n generalizing p with
  | zero => simp [everyNumber]
  | succ n ih =>
    simp only [everyNumber, Bool.and_eq_true, ih, pow_succ]
    constructor
    · rintro ⟨even, odd⟩ x bound
      rcases Nat.mod_two_eq_zero_or_one x with h | h
      · have e : 2 * (x / 2) = x := by omega
        exact e ▸ even (x / 2) (by omega)
      · have e : 2 * (x / 2) + 1 = x := by omega
        exact e ▸ odd (x / 2) (by omega)
    · exact fun h => ⟨fun x bound => h _ (by omega), fun x bound => h _ (by omega)⟩

/-- Every block is a number of 128 bits. -/
theorem everyNumber_block {p : Block → Bool} :
    everyNumber 128 (fun x => p (BitVec.ofNat 128 x)) = true ↔ ∀ b, p b = true := by
  rw [everyNumber_iff]
  constructor
  · intro h b
    have e := h b.toNat b.isLt
    rwa [BitVec.ofNat_toNat, BitVec.setWidth_eq] at e
  · exact fun h x _ => h _

@[simp] theorem bytesOfNumber_length (n x : Nat) : (bytesOfNumber n x).length = n := by
  induction n generalizing x with
  | zero => rfl
  | succ n ih => simp [bytesOfNumber, ih]

/-- Every byte sequence is the bytes of a number. -/
theorem exists_bytesOfNumber {b : Bytes} {n : Nat} (h : b.length = n) : ∃ x < 2 ^ (8 * n), bytesOfNumber n x = b := by
  induction b generalizing n with
  | nil =>
    subst h
    exact ⟨0, by simp, rfl⟩
  | cons y rest ih =>
    subst h
    obtain ⟨x, bound, e⟩ := ih rfl
    have small : y.toNat < 256 := y.isLt
    refine ⟨y.toNat + 256 * x, ?_, ?_⟩
    · rw [List.length_cons, Nat.mul_succ, pow_add]
      omega
    · have quotient : (y.toNat + 256 * x) / 256 = x := by omega
      have low : BitVec.ofNat 8 (y.toNat + 256 * x) = y := BitVec.eq_of_toNat_eq (by
        rw [BitVec.toNat_ofNat]
        omega)
      simp only [List.length_cons, bytesOfNumber, quotient, low, e]

/-- What the check of a codec binding says (43_fec_adapter.md R220, R221). -/
theorem keepsLength_iff {codec : Bytes → Option (Bytes × Nat)} {input output : Nat} :
    keepsLength codec input output = true ↔
      ∀ raw out n, raw.length = input → codec raw = some (out, n) → out.length = output := by
  rw [keepsLength, everyNumber_iff]
  constructor
  · intro h raw out n len e
    obtain ⟨x, bound, rfl⟩ := exists_bytesOfNumber len
    simpa [e] using h x bound
  · intro h x _
    cases e : codec (bytesOfNumber input x) with
    | none => rfl
    | some r => simpa using h _ r.1 r.2 (bytesOfNumber_length input x) e

/-- What the check of the cipher says (45_decryptor.md R262). -/
theorem inverts_iff {dec enc : Block → Block → Block} :
    inverts dec enc = true ↔ ∀ k p, dec k (enc k p) = p := by
  rw [inverts, everyNumber_block (p := fun k => everyNumber 128 fun x =>
    dec k (enc k (BitVec.ofNat 128 x)) == BitVec.ofNat 128 x)]
  refine forall_congr' fun k => ?_
  rw [everyNumber_block (p := fun b => dec k (enc k b) == b)]
  simp only [beq_iff_eq]

/-- The check decides `Config.Legal`. -/
theorem legalCheck_iff {c : Config} : legalCheck c = true ↔ c.Legal := by
  simp only [legalCheck, Bool.and_eq_true, keepsLength_iff, inverts_iff]
  exact ⟨fun ⟨⟨⟨h1, h2⟩, h3⟩, h4⟩ => ⟨h1, h2, h3, h4⟩, fun h => ⟨⟨⟨h.1, h.2⟩, h.3⟩, h.4⟩⟩

/-- A legal configuration boots into its reset state, and no other configuration boots (00_scope.md R9). -/
theorem boot_legal {c : Config} (h : c.Legal) : boot c = .next (State.resetAt c) := by
  rw [boot, if_pos (legalCheck_iff.2 h)]

theorem boot_illegal {c : Config} (h : ¬ c.Legal) : boot c = .refused .illegalConfiguration := by
  rw [boot, if_neg fun e => h (legalCheck_iff.1 e)]

/-! ### The machine and its configuration; the agents -/

theorem exec_eq_execAt (i : Instr) (s : State) : exec i s = execAt Config.machine i s := by
  cases i <;> rfl

theorem step_eq_stepAt (s : State) : step s = stepAt Config.machine s := by
  have e : exec = execAt Config.machine := funext fun i => funext fun s => exec_eq_execAt i s
  simp only [step, stepAt, e]

section
variable {c : Config} {ex : Instr → State → Host.Outcome State Fault Refusal} {s : State}

theorem turnStep_core (h : coreTurn s = true) : turnStep c ex s = coreStep ex (afterTurn s) := by
  rcases s with ⟨_, _, _, _, _, _, _, _, _, _, _, _, _, _, _, _, _, turns⟩
  match turns, h with
  | [], _ => rfl
  | .core :: _, _ => rfl

/-- Where a command is accepted the head of the port is taken (40_host_commands.md R140, R154). -/
theorem coreStep_accept {w : Word} {rest : List Word} (ha : acceptsCommands s.seqState = true)
    (hp : s.port = w :: rest) : coreStep ex s = acceptWord ex w { s with port := rest } := by
  simp [coreStep, ha, hp]

/-- Everywhere else SEQ_STATE selects the step (46_resync_sequencer.md R280). -/
theorem coreStep_sequencer (h : acceptsCommands s.seqState = true → s.port = []) :
    coreStep ex s = sequencerStep ex s := by
  cases ha : acceptsCommands s.seqState with
  | false => simp [coreStep, ha]
  | true => simp [coreStep, ha, h ha]

/-- The steps of the agents other than HOST and SEQ change their own list and one FIFO, or reset the core. -/
theorem turnStep_outside (h : coreTurn s = false) :
    turnStep c ex s = .next (takeResult (afterTurn s)) ∨ turnStep c ex s = .next (takeResponse (afterTurn s)) ∨
      turnStep c ex s = .next (platformReset c (afterTurn s)) := by
  rcases s with ⟨_, _, _, _, _, _, _, _, _, _, _, _, _, _, _, _, _, turns⟩
  match turns, h with
  | .takeResult :: _, _ => exact .inl rfl
  | .takeResponse :: _, _ => exact .inr (.inl rfl)
  | .reset :: _, _ => exact .inr (.inr rfl)

end

end Sys2Proof.Machine
end

