-- ==== Sys2Proof/Laws/Exec.lean ====
section
/-! SUPPORT. Everything an instruction can do when it answers a next state, one lemma an instruction, and the steps
of the machine. Later proofs cite these and unfold no meaning. -/

namespace Sys2Proof.Machine

section
variable {c : Config} {s t : State}

/-! ### Commands -/

theorem execAt_nop_cases (h : execAt c .nop s = .next t) : t = s := by
  simp only [execAt, execNop, Host.Outcome.next.injEq] at h
  exact h.symm

theorem execAt_pushBits_cases {nm1 : BitVec 4} {data : BitVec 16} (h : execAt c (.pushBits nm1 data) s = .next t) :
    (s.seqState = .cfgError ∧ t = refuseCommand s) ∨
    (s.seqState ≠ .cfgError ∧ pushFits c (nm1.toNat + 1) s = true ∧ t = pushRaw c (pushedBits nm1 data) s) ∨
    (s.seqState ≠ .cfgError ∧ pushFits c (nm1.toNat + 1) s = false ∧ t = setFlag .ovf s) := by
  simp only [execAt, Host.Outcome.next.injEq] at h
  by_cases hs : s.seqState = .cfgError
  · exact .inl ⟨hs, by rw [← h, unlessCfgError_refuses hs]⟩
  · rw [unlessCfgError_acts hs, pushBitsEffect, pushCount] at h
    cases hf : pushFits c (nm1.toNat + 1) s <;> simp only [hf, if_true, if_false, Bool.false_eq_true] at h
    · exact .inr (.inr ⟨hs, rfl, h.symm⟩)
    · exact .inr (.inl ⟨hs, rfl, h.symm⟩)

theorem execAt_scan_cases (h : execAt c .scan s = .next t) :
    ((s.seqState = .cfgError ∨ s.mode = .datagram) ∧ t = refuseCommand s) ∨
    (s.seqState ≠ .cfgError ∧ s.mode = .streaming ∧ t = { clearPassFlags s with seqState := .scanning }) := by
  simp only [execAt, execScan, Host.Outcome.next.injEq] at h
  by_cases hs : s.seqState = .cfgError
  · exact .inl ⟨.inl hs, by rw [← h, unlessCfgError_refuses hs]⟩
  · rw [unlessCfgError_acts hs, scanEffect] at h
    cases hm : s.mode <;> simp only [hm] at h
    · exact .inr ⟨hs, rfl, h.symm⟩
    · exact .inl ⟨.inr rfl, h.symm⟩

theorem execAt_dgram_cases (h : execAt c .dgram s = .next t) :
    ((s.seqState = .cfgError ∨ s.mode = .streaming) ∧ t = refuseCommand s) ∨
    (s.seqState ≠ .cfgError ∧ s.mode = .datagram ∧ s.buflen.toNat = c.F ∧ t = datagramStart s) ∨
    (s.seqState ≠ .cfgError ∧ s.mode = .datagram ∧ s.buflen.toNat ≠ c.F ∧
      t = streamReset (setFlag .dlenErr s)) := by
  simp only [execAt, Host.Outcome.next.injEq] at h
  by_cases hs : s.seqState = .cfgError
  · exact .inl ⟨.inl hs, by rw [← h, unlessCfgError_refuses hs]⟩
  · rw [unlessCfgError_acts hs, dgramEffect] at h
    cases hm : s.mode <;> simp only [hm] at h
    · exact .inl ⟨.inr rfl, h.symm⟩
    · by_cases hb : s.buflen.toNat = c.F
      · rw [if_pos hb] at h
        exact .inr (.inl ⟨hs, rfl, hb, h.symm⟩)
      · rw [if_neg hb] at h
        exact .inr (.inr ⟨hs, rfl, hb, h.symm⟩)

theorem execAt_resetStream_cases (h : execAt c .resetStream s = .next t) :
    (s.seqState = .cfgError ∧ t = refuseCommand s) ∨ (s.seqState ≠ .cfgError ∧ t = streamReset s) := by
  simp only [execAt, execResetStream, Host.Outcome.next.injEq] at h
  by_cases hs : s.seqState = .cfgError
  · exact .inl ⟨hs, by rw [← h, unlessCfgError_refuses hs]⟩
  · exact .inr ⟨hs, by rw [← h, unlessCfgError_acts hs]⟩

theorem execAt_setMode_cases {m : Mode} (h : execAt c (.setMode m) s = .next t) :
    (s.seqState = .cfgError ∧ t = refuseCommand s) ∨
    (s.seqState ≠ .cfgError ∧ t = streamReset { s with mode := m }) := by
  simp only [execAt, execSetMode, Host.Outcome.next.injEq] at h
  by_cases hs : s.seqState = .cfgError
  · exact .inl ⟨hs, by rw [← h, unlessCfgError_refuses hs]⟩
  · exact .inr ⟨hs, by rw [← h, unlessCfgError_acts hs, setModeEffect]⟩

theorem execAt_readReg_cases {a : BitVec 8} (h : execAt c (.readReg a) s = .next t) :
    (∃ w, registerAt c a s = some w ∧ t = respond w s) ∨
    (registerAt c a s = none ∧ t = refuseCommand (respond 0 s)) := by
  simp only [execAt, Host.Outcome.next.injEq, readRegEffect] at h
  cases hr : registerAt c a s <;> simp only [hr] at h
  · exact .inr ⟨rfl, h.symm⟩
  · exact .inl ⟨_, rfl, h.symm⟩

theorem execAt_clear_cases {cnt flg : Bool} (h : execAt c (.clear cnt flg) s = .next t) :
    (s.seqState = .cfgError ∧ t = refuseCommand s) ∨ (s.seqState ≠ .cfgError ∧ t = clearEffect cnt flg s) := by
  simp only [execAt, execClear, Host.Outcome.next.injEq] at h
  by_cases hs : s.seqState = .cfgError
  · exact .inl ⟨hs, by rw [← h, unlessCfgError_refuses hs]⟩
  · exact .inr ⟨hs, by rw [← h, unlessCfgError_acts hs]⟩

/-- CLEAR field by field (40_host_commands.md R153). -/
theorem clearEffect_eq (cnt flg : Bool) (s : State) : clearEffect cnt flg s = { s with
    flags := if flg then { ovf := false, cmdErr := false, dlenErr := false, lenClamp := false } else s.flags
    counters := if cnt then { ok := 0, sync := 0, inner := 0, outer := 0, integ := 0 } else s.counters
    latches := if cnt then { cscore := 0, dscore := 0, icorr := 0, ocorr := 0 } else s.latches } := by
  cases cnt <;> cases flg <;> rfl

theorem execAt_reservedOp_cases {op : BitVec 4} {ignored : BitVec 28} (h : execAt c (.reservedOp op ignored) s = .next t) :
    t = refuseCommand s := by
  simp only [execAt, execReservedOp, Host.Outcome.next.injEq] at h
  exact h.symm

/-! ### Sequencer steps -/

/-- SCANNING ends the pass, starts an attempt or moves on by one bit. -/
theorem execAt_seqScanning_cases (h : execAt c .seqScanning s = .next t) :
    (remaining s < c.F ∧ t = passEnd s) ∨
    ∃ p, c.F ≤ remaining s ∧ windowPasses c s.buf s.offset.toNat = p ∧
      t = (if p then attemptStart else advance 1) { s with
        latches := { s.latches with cscore := BitVec.ofNat 32 (windowScore c s.buf s.offset.toNat) }
        pass := notePass p s.pass } := by
  simp only [execAt, Host.Outcome.next.injEq, scanningEffect] at h
  by_cases hr : remaining s < c.F
  · rw [if_pos hr] at h
    exact .inl ⟨hr, h.symm⟩
  · rw [if_neg hr, evaluateWindow] at h
    refine .inr ⟨_, by omega, rfl, ?_⟩
    rw [← h]
    split <;> rfl

theorem execAt_seqInner_cases (h : execAt c .seqInner s = .next t) :
    s.offset.toNat + c.F ≤ s.buflen.toNat ∧
    ((c.innerDecode (pack (slice s.buf s.offset.toNat c.F)) = none ∧
        t = finish 1 (report .innerDecodeFailure 1 [] s)) ∨
      ∃ dec n, c.innerDecode (pack (slice s.buf s.offset.toNat c.F)) = some (dec, n) ∧ t = { s with
        dec := some dec, latches := { s.latches with icorr := BitVec.ofNat 32 n }, seqState := .decAsm }) := by
  simp only [execAt, innerStep] at h
  by_cases hr : s.offset.toNat + c.F ≤ s.buflen.toNat
  · rw [bufRead_ok (Nat.le_refl _) hr] at h
    simp only [Host.Outcome.next.injEq, innerEffect] at h
    refine ⟨hr, ?_⟩
    split at h
    · exact .inl ⟨‹_›, h.symm⟩
    · exact .inr ⟨_, _, ‹_›, h.symm⟩
  · rw [bufRead_error (by omega)] at h
    simp at h

theorem execAt_seqDecAsm_cases (h : execAt c .seqDecAsm s = .next t) :
    ∃ dec, s.dec = some dec ∧
    ((decodedScore c dec < c.T_D ∧ t = finish 1 (report .innerDecodeFailure 2 [] { s with
        latches := { s.latches with dscore := BitVec.ofNat 32 (decodedScore c dec) } })) ∨
      (c.T_D ≤ decodedScore c dec ∧ t = { s with
        latches := { s.latches with dscore := BitVec.ofNat 32 (decodedScore c dec) }, seqState := .outer })) := by
  simp only [execAt, decAsmStep] at h
  cases hd : s.dec with
  | none => simp [hd] at h
  | some dec =>
    simp only [hd, Host.Outcome.next.injEq, decAsmEffect] at h
    refine ⟨dec, rfl, ?_⟩
    rw [← h]
    by_cases hs : decodedScore c dec < c.T_D
    · left
      rw [if_pos hs]
      simp only [frameError, finishFail, hs, true_and, ← hd]
    · right
      rw [if_neg hs]
      exact ⟨by omega, by simp [← hd]⟩

theorem execAt_seqOuter_cases (h : execAt c .seqOuter s = .next t) :
    ∃ dec, s.dec = some dec ∧
    ((c.outerDecode (outerBlock c dec) = none ∧ t = finish 1 (report .outerDecodeFailure 0 [] s)) ∨
      ∃ data n, c.outerDecode (outerBlock c dec) = some (data, n) ∧ t = { s with
        data := some data, latches := { s.latches with ocorr := BitVec.ofNat 32 n }, seqState := .integrity }) := by
  simp only [execAt, outerStep] at h
  cases hd : s.dec with
  | none => simp [hd] at h
  | some dec =>
    simp only [hd, Host.Outcome.next.injEq, outerEffect] at h
    refine ⟨dec, rfl, ?_⟩
    split at h
    · exact .inl ⟨‹_›, h.symm⟩
    · exact .inr ⟨_, _, ‹_›, h.symm⟩

theorem execAt_seqIntegrity_cases (h : execAt c .seqIntegrity s = .next t) :
    ∃ data, s.data = some data ∧
    ((checksumMatches c data = true ∧ t = { s with seqState := .decrypt }) ∨
      (checksumMatches c data = false ∧ t = finish (c.F - c.V) (report .integrityMismatch 0 [] s))) := by
  simp only [execAt, integrityStep] at h
  cases hd : s.data with
  | none => simp [hd] at h
  | some data =>
    simp only [hd, Host.Outcome.next.injEq, integrityEffect] at h
    refine ⟨data, rfl, ?_⟩
    cases hc : checksumMatches c data <;> simp only [hc, if_true, if_false, Bool.false_eq_true] at h
    · exact .inr ⟨rfl, h.symm⟩
    · exact .inl ⟨rfl, h.symm⟩

theorem execAt_seqDecrypt_cases (h : execAt c .seqDecrypt s = .next t) :
    ∃ data, s.data = some data ∧
      t = finish (c.F - c.V) (report .ok 0 (okPayload c (heldKey c s) data) { s with
        flags := if c.D < (parse c data).len then setSticky .lenClamp s.flags else s.flags }) := by
  simp only [execAt, decryptStep] at h
  cases hd : s.data with
  | none => simp [hd] at h
  | some data =>
    simp only [hd, Host.Outcome.next.injEq, decryptEffect] at h
    refine ⟨data, rfl, ?_⟩
    rw [← h, finishSuccess, ← hd]
    split <;> rfl

theorem execAt_seqCfgError_cases (h : execAt c .seqCfgError s = .next t) : t = s := by
  simp only [execAt, execSeqCfgError, Host.Outcome.next.injEq] at h
  exact h.symm

/-- An OK payload has at most `D` bytes (45_decryptor.md R263, R264). -/
theorem okPayload_length (c : Config) (key : Block) (data : Bytes) : (okPayload c key data).length ≤ c.D := by
  simp [okPayload]

end

end Sys2Proof.Machine
end

