-- ==== Sys2Proof/Laws/Inv.lean ====
section
/-! SUPPORT. What a legal configuration gives, and which named updates keep the invariant of the core. -/

namespace Sys2Proof

namespace Config

/-- The numeric constraints of 00_scope.md R7 as facts. -/
theorem Legal.numbers {c : Config} (h : c.Legal) :
    0 < c.A ∧ c.A % 8 = 0 ∧ c.ASM < 2 ^ c.A ∧ c.CASM < 2 ^ c.W ∧ c.T_C ≤ c.W ∧ c.T_D ≤ c.A ∧ c.K ≤ c.N ∧ 0 < c.D ∧
      c.D % 16 = 0 ∧ c.V < c.F ∧ c.F ≤ c.BUF_CAP := by
  have g := h.geometry
  simp only [geometryOk, Bool.and_eq_true, decide_eq_true_eq] at g
  obtain ⟨⟨⟨⟨⟨⟨⟨⟨⟨⟨h1, h2⟩, h3⟩, h4⟩, h5⟩, h6⟩, h7⟩, h8⟩, h9⟩, h10⟩, h11⟩ := g
  exact ⟨h1, h2, h3, h4, h5, h6, h7, h8, h9, h10, h11⟩

theorem Legal.F_pos {c : Config} (h : c.Legal) : 0 < c.F := by
  have := h.numbers.1
  simp only [F]
  omega

/-- A RawFrame is a whole number of bytes. -/
theorem Legal.F_bytes {c : Config} (h : c.Legal) : c.F = 8 * c.FB := by
  have := h.numbers.2.1
  simp only [F, FB]
  omega

theorem W_le_F (c : Config) : c.W ≤ c.F := by
  simp only [W, F]
  omega

end Config

namespace Machine

variable {c : Config} {s : State}

theorem attempting_ne_cfgError (h : attempting s.seqState = true) : s.seqState ≠ .cfgError := by
  intro e
  simp [e, attempting] at h

/-! ### Fields the invariant does not read -/

theorem Inv.withPort (h : Inv c s) (p : List Word) : Inv c { s with port := p } :=
  ⟨h.1, h.2, h.3, h.4, h.5, h.6, h.7, h.8, h.9, h.10, h.11, h.12, h.13, h.14, h.15, h.16, h.17, h.18, h.19⟩

theorem Inv.withTurns (h : Inv c s) (ts : List Turn) : Inv c { s with turns := ts } :=
  ⟨h.1, h.2, h.3, h.4, h.5, h.6, h.7, h.8, h.9, h.10, h.11, h.12, h.13, h.14, h.15, h.16, h.17, h.18, h.19⟩

theorem Inv.withFlags (h : Inv c s) (f : StickyFlags) : Inv c { s with flags := f } :=
  ⟨h.1, h.2, h.3, h.4, h.5, h.6, h.7, h.8, h.9, h.10, h.11, h.12, h.13, h.14, h.15, h.16, h.17, h.18, h.19⟩

theorem Inv.withResponses (h : Inv c s) (ws : List Word) : Inv c { s with responses := ws } :=
  ⟨h.1, h.2, h.3, h.4, h.5, h.6, h.7, h.8, h.9, h.10, h.11, h.12, h.13, h.14, h.15, h.16, h.17, h.18, h.19⟩

theorem Inv.withCounters (h : Inv c s) (k : Counters) : Inv c { s with counters := k } :=
  ⟨h.1, h.2, h.3, h.4, h.5, h.6, h.7, h.8, h.9, h.10, h.11, h.12, h.13, h.14, h.15, h.16, h.17, h.18, h.19⟩

theorem Inv.withResults (h : Inv c s) (rs : List Record) (legal : ∀ r ∈ rs, LegalRecord c r) :
    Inv c { s with results := rs } :=
  ⟨h.1, h.2, h.3, h.4, h.5, h.6, h.7, h.8, h.9, h.10, h.11, h.12, h.13, h.14, h.15, h.16, h.17, legal, h.causeCode⟩

/-! ### Stream reset, the end of a pass, records, the end of an attempt -/

theorem Inv.cause_zero (h : Inv c s) (hs : s.seqState ≠ .cfgError) : s.cfgCause = 0 :=
  Decidable.byContradiction fun e => hs (h.cause.2 e)

theorem Inv.streamReset (h : Inv c s) (hs : attempting s.seqState = false) : Inv c (streamReset s) := by
  have apart : ∀ st, attempting st = true → s.seqState ≠ st := by
    rintro st ha rfl
    rw [hs] at ha
    exact absurd ha (by decide)
  have h2 := apart .inner rfl
  have h3 := apart .decAsm rfl
  have h4 := apart .outer rfl
  have h5 := apart .integrity rfl
  have h6 := apart .decrypt rfl
  exact ⟨rfl, Nat.le_refl 0, Nat.zero_le _, by simp [hs], h.cause, h.keyHeld, by simp [h3, h4], by simp [h5, h6],
    fun _ => rfl, h.datagramScan, by simp [hs], fun _ _ => rfl, by simp [h2], by simp [h3], by simp [h4], by simp,
    by simp [hs], h.records, h.causeCode⟩

theorem Inv.toIdle (h : Inv c s) (hs : s.seqState ≠ .cfgError) : Inv c { s with seqState := .idle } :=
  ⟨h.1, h.2, h.3, by simp [attempting], by simp [h.cause_zero hs], fun _ => h.keyHeld hs, by simp, by simp,
    h.datagramOffset, by simp, by simp [attempting], h.datagramPrev, by simp, by simp, by simp, h.passFlags,
    by simp [attempting], h.records, h.causeCode⟩

/-- A record of a legal outcome keeps the invariant (30_encoding.md R116). -/
theorem Inv.report (h : Inv c s) {code : ResultCode} {sub : BitVec 4} {p : Bytes} (legal : legalOutcome code sub = true)
    (len : p.length ≤ c.D) (empty : code ≠ .ok → p = [])
    (running : s.mode = .datagram → attempting s.seqState = true) : Inv c (report code sub p s) := by
  refine Inv.withCounters (s := { s with results := s.results ++ [recordOf code sub p s] }) (h.withResults _ ?_) _
  intro r hr
  rw [List.mem_append, List.mem_singleton] at hr
  rcases hr with hr | rfl
  · exact h.records r hr
  · exact ⟨legal, len, empty, h.datagramOffset, fun hm => h.datagramScore hm (running hm)⟩

theorem Inv.advance (h : Inv c s) {n : Nat} (hm : s.mode = .streaming) (hs : s.seqState ≠ .cfgError)
    (inside : s.offset.toNat + n ≤ s.buflen.toNat) : Inv c (advance n s) := by
  have e := offset_add inside
  refine ⟨h.1, ?_, ?_, by simp [attempting], by simp [h.cause_zero hs], fun _ => h.keyHeld hs, by simp, by simp,
    by simp [hm], by simp [hm], by simp [hm], by simp [hm], by simp, by simp, by simp, h.passFlags,
    by simp [attempting], h.records, h.causeCode⟩
  · simp only [advance_offset, advance_buflen, e, inside]
  · have := h.capacity
    simp only [advance_offset, advance_buflen, e]
    omega

theorem Inv.finish (h : Inv c s) {n : Nat} (hs : s.seqState ≠ .cfgError)
    (inside : s.offset.toNat + n ≤ s.buflen.toNat) : Inv c (finish n s) := by
  cases hm : s.mode with
  | streaming =>
    rw [finish_streaming hm]
    exact h.advance hm hs inside
  | datagram =>
    rw [finish_datagram hm]
    exact (h.toIdle hs).streamReset rfl

/-- A frame-level error of an attempt keeps the invariant (60_exceptions.md R321). -/
theorem Inv.frameError (h : Inv c s) {code : ResultCode} {sub : BitVec 4} {n : Nat}
    (legal : legalOutcome code sub = true) (running : attempting s.seqState = true)
    (inside : n ≤ c.F) : Inv c (Machine.frameError code sub (Machine.finish n) s) := by
  have frame := h.frameInside running
  refine Inv.finish (h.report legal (Nat.zero_le _) (fun _ => rfl) fun _ => running) ?_ ?_
  · simpa using attempting_ne_cfgError running
  · simp only [report_offset, report_buflen]
    omega

end Machine

end Sys2Proof
end

