-- ==== Sys2Proof/Laws/PerInstr.lean ====
section
/-! SUPPORT. The per-instruction family RowMatch: the encoding of a well-formed instruction matches its row of
spec/opcode_table.json (30_encoding.md R105). -/

namespace Sys2Proof.Laws.RowMatch

/-- The encoding of `i`, when well-formed, has the match and mask of its row. -/
def Statement (i : Instr) : Prop :=
  i.wellFormed = true → i.row.matchesCode (encode i) = true

theorem nop : Statement .nop := by
  intro _
  decide

theorem pushBits (nm1 : BitVec 4) (data : BitVec 16) : Statement (.pushBits nm1 data) := by
  intro _
  refine masked_eq fun i hi => ?_
  have low : i < 20 ∨ 20 ≤ i := by omega
  rcases low with low | high
  · have mask : ∀ i < 20, (0xFFF00000 : Word).getLsbD i = false := by decide
    have pattern : ∀ i < 20, (0x10000000 : Word).getLsbD i = false := by decide
    rw [mask i low, pattern i low, Bool.and_false]
  · have mask : ∀ i < 32, 20 ≤ i → (0xFFF00000 : Word).getLsbD i = true := by decide
    have pattern : ∀ i < 32, 20 ≤ i → (decide (28 ≤ i) && (1#4).getLsbD (i - 28)) = (0x10000000 : Word).getLsbD i := by
      decide
    have none1 : nm1.getLsbD (i - 16) = false := BitVec.getLsbD_of_ge _ _ (by omega)
    have none2 : data.getLsbD (i - 0) = false := BitVec.getLsbD_of_ge _ _ (by omega)
    rw [mask i hi high, ← pattern i hi high, Bool.and_true]
    simp only [BitVec.getLsbD_or, placed_getLsbD, none1, none2, hi, Bool.and_false, Bool.or_false, decide_true,
      Bool.true_and]

theorem scan : Statement .scan := by
  intro _
  decide

theorem dgram : Statement .dgram := by
  intro _
  decide

theorem resetStream : Statement .resetStream := by
  intro _
  decide

theorem setMode (m : Mode) : Statement (.setMode m) := by
  intro _
  cases m <;> decide

theorem readReg (addr : BitVec 8) : Statement (.readReg addr) := by
  intro _
  revert addr
  decide

theorem clear (cnt flg : Bool) : Statement (.clear cnt flg) := by
  intro _
  cases cnt <;> cases flg <;> decide

theorem reservedOp (op : BitVec 4) (ignored : BitVec 28) : Statement (.reservedOp op ignored) := by
  intro h
  refine masked_eq fun i hi => ?_
  by_cases top : i = 31
  · have none1 : ignored.getLsbD 31 = false := BitVec.getLsbD_of_ge _ _ (by omega)
    subst top
    simp only [Instr.wellFormed] at h
    simp only [BitVec.getLsbD_or, placed_getLsbD, none1, h]
    decide
  · have mask : ∀ i < 32, i ≠ 31 → (0x80000000 : Word).getLsbD i = false := by decide
    rw [mask i hi top, Bool.and_false]

theorem seqScanning : Statement .seqScanning := by
  intro _
  decide

theorem seqInner : Statement .seqInner := by
  intro _
  decide

theorem seqDecAsm : Statement .seqDecAsm := by
  intro _
  decide

theorem seqOuter : Statement .seqOuter := by
  intro _
  decide

theorem seqIntegrity : Statement .seqIntegrity := by
  intro _
  decide

theorem seqDecrypt : Statement .seqDecrypt := by
  intro _
  decide

theorem seqCfgError : Statement .seqCfgError := by
  intro _
  decide

end Sys2Proof.Laws.RowMatch
end

