-- ==== Sys2Proof/Tests/Slice0.lean ====
section
/-! SUPPORT. The model's own tests. Expected values are those of spec/95_test_vectors.md (sections named in each
comment) or written out from the rule named; the last part shows, for every obligation with hypotheses, a case that
meets them. -/

namespace Sys2Proof.Tests

open Sys2Proof.Machine Sys2Proof.Claims

/-! ### The test configuration TC (95_test_vectors.md section 1) -/

/-- Bits 0, 2, 4, … of a sequence. -/
def everyOther : Bits → Bits
  | a :: _ :: rest => a :: everyOther rest
  | _ => []

/-- The number of pairs `(b[2j], b[2j+1])` whose bits differ. -/
def unequalPairs : Bits → Nat
  | a :: b :: rest => (if a = b then 0 else 1) + unequalPairs rest
  | _ => 0

def tc : Config where
  A := 8
  ASM := 0x1D
  CASM := 0x03F3
  T_C := 14
  T_D := 7
  N := 25
  R := 1
  C := 1
  D := 16
  V := 8
  BUF_CAP := 1024
  dgramDiff := false
  innerDecode := fun b =>
    if 4 < unequalPairs (unpack b) then none else some (pack (everyOther (unpack b)), unequalPairs (unpack b))
  outerDecode := fun b => if b.foldl (fun x y => x ^^^ y) 0#8 = 0 then some (b.take 24, 0) else none
  blockDec := fun k ct => ct ^^^ k
  blockEnc := fun k p => p ^^^ k
  keyText := "000102030405060708090a0b0c0d0e0f".toList
  innerAvailable := true
  outerAvailable := true
  overwide := fun _ => 0
  unheldKey := 0

theorem everyOther_length (s : Bits) : (everyOther s).length = s.length / 2 := by
  fun_induction everyOther s with
  | case1 a b rest ih =>
    simp only [List.length_cons, ih]
    omega
  | case2 s h =>
    match s, h with
    | [], _ => rfl
    | [_], _ => simp
    | a :: b :: rest, h => exact absurd rfl (h a b rest)

/-- TC is a legal configuration (00_scope.md R7, 43_fec_adapter.md R220, R221, 45_decryptor.md R262). -/
theorem tc_legal : tc.Legal where
  geometry := by decide
  innerLength := by
    intro raw dec n len h
    simp only [tc] at h len ⊢
    split at h
    · simp at h
    · simp only [Option.some.injEq, Prod.mk.injEq] at h
      rw [← h.1, pack_length, everyOther_length, unpack_length, len]
  outerLength := by
    intro blk data n len h
    simp only [tc] at h len ⊢
    split at h
    · simp only [Option.some.injEq, Prod.mk.injEq] at h
      rw [← h.1, List.length_take, len]
      decide
    · simp at h
  blockInverse := by
    intro k p
    show (p ^^^ k) ^^^ k = p
    rw [BitVec.xor_assoc, BitVec.xor_self, BitVec.xor_zero]

/-! ### States the tests start from -/

/-- Idle in streaming mode, every register 0 and a key held. -/
def idle0 : State := { State.resetAt tc with port := [], turns := [] }

/-- The next state of an outcome. -/
def nextOf : Host.Outcome State Fault Refusal → Option State
  | .next s => some s
  | .fault _ => none
  | .refused _ => none

/-- One field of the state after one instruction under TC. -/
def after {α : Type} (f : State → α) (i : Instr) (s : State) : Option α :=
  (nextOf (execAt tc i s)).map f

/-! ### WellFormed -/

theorem smoke_reserved_opcode_below_8 : (Instr.reservedOp 7 0).wellFormed = false := by decide
theorem smoke_reserved_opcode_8 : (Instr.reservedOp 8 0).wellFormed = true := by decide

/-! ### Decoding: words written out from 30_encoding.md R101, R106 (95_test_vectors.md section 3.7) -/

theorem test_decode_nop : decodeTableWord 32 0x00000000 = some .nop := by decide
theorem test_decode_pushBits : decodeTableWord 32 0x1003B000 = some (.pushBits 3 0xB000) := by decide
theorem test_decode_pushBits_sixteen : decodeTableWord 32 0x100FFFFF = some (.pushBits 15 0xFFFF) := by decide
theorem test_decode_scan : decodeTableWord 32 0x20000000 = some .scan := by decide
theorem test_decode_dgram : decodeTableWord 32 0x30000000 = some .dgram := by decide
theorem test_decode_resetStream : decodeTableWord 32 0x40000000 = some .resetStream := by decide
theorem test_decode_setMode : decodeTableWord 32 0x50000001 = some (.setMode .datagram) := by decide
theorem test_decode_setMode_streaming : decodeTableWord 32 0x50000000 = some (.setMode .streaming) := by decide
theorem test_decode_readReg : decodeTableWord 32 0x6000000D = some (.readReg 0x0D) := by decide
/-- `CLEAR 1, 0`: FLG in bit 0, CNT in bit 1. -/
theorem test_decode_clear_flags : decodeTableWord 32 0x70000001 = some (.clear false true) := by decide
theorem test_decode_clear_counts : decodeTableWord 32 0x70000002 = some (.clear true false) := by decide
theorem test_decode_reservedOp : decodeTableWord 32 0xF0000000 = some (.reservedOp 0xF 0) := by decide
theorem test_decode_reservedOp_8 : decodeTableWord 32 0x80000001 = some (.reservedOp 8 1) := by decide
theorem test_decode_seqScanning : decodeTableWord 4 0x1 = some .seqScanning := by decide
theorem test_decode_seqInner : decodeTableWord 4 0x2 = some .seqInner := by decide
theorem test_decode_seqDecAsm : decodeTableWord 4 0x3 = some .seqDecAsm := by decide
theorem test_decode_seqOuter : decodeTableWord 4 0x4 = some .seqOuter := by decide
theorem test_decode_seqIntegrity : decodeTableWord 4 0x5 = some .seqIntegrity := by decide
theorem test_decode_seqDecrypt : decodeTableWord 4 0x6 = some .seqDecrypt := by decide
theorem test_decode_seqCfgError : decodeTableWord 8 0xF = some .seqCfgError := by decide

/-- Reserved fields (30_encoding.md R104) and codes that select nothing (10_state.md R32). -/
theorem test_decode_rejects :
    decode (.command 0x00000001) = .error (.reservedField 0) ∧
    decode (.command 0x10100000) = .error (.reservedField 1) ∧
    decode (.command 0x50000002) = .error (.reservedField 5) ∧
    decode (.command 0x60000100) = .error (.reservedField 6) ∧
    decode (.command 0x70000004) = .error (.reservedField 7) ∧
    decode (.seq 0x0) = .error .idleSelectsNoStep ∧ decode (.seq 0xE) = .error (.neverHeld 0xE) := by decide

/-! ### Placing a word where the next step takes it -/

theorem test_fetch_reservedOp :
    step (State.reset.withFetchWord 32 0xF0000000) =
      exec (.reservedOp 0xF 0) { State.reset with seqState := .idle } := rfl

theorem test_fetch_sequencer_step :
    step (State.reset.withFetchWord 4 0xF) = exec .seqCfgError { State.reset with seqState := .cfgError } := rfl

/-! ### Commands (95_test_vectors.md section 3.7, rows K1 to K21) -/

/-- K1 and K2: `1 0 1` decodes to `1 1 1`, and the other DATA bits are ignored. -/
theorem test_push_decodes :
    after State.buf (.pushBits 2 0xA000) idle0 = some [true, true, true] ∧
    after State.buf (.pushBits 2 0xBFFF) idle0 = some [true, true, true] ∧
    after State.prevBit (.pushBits 2 0xBFFF) idle0 = some true := by decide

/-- K6: a push past BUF_CAP is dropped whole and sets OVF. -/
theorem test_push_overflow :
    after statusWord (.pushBits 0 0) { idle0 with buflen := 1024 } = some 0x100 ∧
    after State.buflen (.pushBits 0 0) { idle0 with buflen := 1024 } = some 1024 := by decide

/-- K7: RESET_STREAM keeps OVF. -/
theorem test_resetStream_keeps_ovf :
    after statusWord .resetStream (setFlag .ovf { idle0 with buflen := 1024 }) = some 0x100 ∧
    after State.buflen .resetStream { idle0 with buflen := 1024 } = some 0 := by decide

/-- K9 and K10: SET_MODE 1, then SCAN. -/
theorem test_setMode_status : after statusWord (.setMode .datagram) idle0 = some 0x1000 := by decide
theorem test_scan_in_datagram_mode :
    after statusWord .scan { idle0 with mode := .datagram } = some 0x1200 := by decide

theorem test_scan_starts : after State.seqState .scan idle0 = some .scanning := by decide

/-- K11, and 40_host_commands.md R144 for a wrong length. -/
theorem test_dgram_in_streaming_mode : after statusWord .dgram idle0 = some 0x200 := by decide
theorem test_dgram_wrong_length :
    after statusWord .dgram { idle0 with mode := .datagram, buflen := 8 } = some 0x1400 := by decide

/-- K12: an unmapped register reads 0 and sets CMD_ERR. -/
theorem test_readReg_unmapped :
    after State.responses (.readReg 0x0F) idle0 = some [0] ∧
    after statusWord (.readReg 0x0F) idle0 = some 0x200 := by decide

/-- FRAME_BITS and BUF_FREE under TC (95_test_vectors.md section 4). -/
theorem test_readReg_views :
    after State.responses (.readReg 0x0E) idle0 = some [0x1A0] ∧
    after State.responses (.readReg 0x0D) idle0 = some [0x400] := by decide

/-- K13: CLEAR with FLG clears CMD_ERR and keeps the counters. -/
theorem test_clear_flags :
    after statusWord (.clear false true) (setFlag .cmdErr idle0) = some 0 ∧
    after State.counters (.clear false true) { idle0 with counters := { idle0.counters with ok := 3 } } =
      some { idle0.counters with ok := 3 } := by decide

/-- K17. -/
theorem test_reservedOp : after statusWord (.reservedOp 0xF 0) idle0 = some 0x200 := by decide

/-- K8, through the step: a non-zero reserved field sets CMD_ERR and consumes the word. -/
theorem test_reserved_field_step :
    (nextOf (stepAt tc { idle0 with port := [0x50000002] })).map statusWord = some 0x200 ∧
    (nextOf (stepAt tc { idle0 with port := [0x50000002] })).map State.port = some [] := by decide

/-- K18, K20 and K21: STATUS right after reset. -/
theorem test_reset_status :
    statusWord (State.resetAt { tc with keyText := "0x00,0x01".toList }) = 0x3F ∧
    statusWord (State.resetAt { tc with innerAvailable := false }) = 0x5F ∧
    statusWord (State.resetAt { tc with outerAvailable := false, keyText := "zz".toList }) = 0x3F ∧
    statusWord (State.resetAt tc) = 0 := by decide

/-- K19: no pass in CFG_ERROR. -/
theorem test_scan_in_cfgError :
    after statusWord .scan (State.resetAt { tc with keyText := "0x00,0x01".toList }) = some 0x23F := by decide

/-! ### Sequencer steps -/

/-- A TC state with the given step next and a whole frame of zero bits in the buffer. -/
def framed (st : SeqState) : State :=
  { idle0 with seqState := st, buf := List.replicate 416 false, buflen := 416 }

/-- P1's Payload (95_test_vectors.md section 3.4). -/
def payload1 : Bytes :=
  [0x0b, 0x00, 0xa5, 0x3c, 0x48, 0x44, 0x4e, 0x4f, 0x4b, 0x29, 0x26, 0x54] ++
    [0x49, 0x5d, 0x2b, 0x0b, 0x0c, 0x0d, 0x0e, 0x0f, 0x69, 0xea, 0x97, 0x22]

/-- P1's DecodedFrame: the marker, the Payload, the parity byte `8D` (row V3). -/
def decoded1 : Bytes := 0x1D :: payload1 ++ [0x8D]

/-- K16: a pass over an empty buffer ends without a record. -/
theorem test_scanning_empty :
    after State.seqState .seqScanning { idle0 with seqState := .scanning } = some .idle ∧
    after State.results .seqScanning { idle0 with seqState := .scanning } = some [] := by decide

/-- A window of zeros scores `16 - popcount 0x03F3 = 8` and OFFSET moves on by one bit. -/
theorem test_scanning_advances :
    after (fun s => s.latches.cscore) .seqScanning (framed .scanning) = some 8 ∧
    after State.offset .seqScanning (framed .scanning) = some 1 := by decide

/-- The repetition double of zero pairs: 26 zero bytes, count 0. -/
theorem test_inner_decodes :
    after State.dec .seqInner (framed .inner) = some (some (List.replicate 26 0)) := by decide +kernel

/-- Row V3's decoded score 8, then OUTER. -/
theorem test_decAsm_confirms :
    after (fun s => s.latches.dscore) .seqDecAsm { framed .decAsm with dec := some decoded1 } = some 8 ∧
    after State.seqState .seqDecAsm { framed .decAsm with dec := some decoded1 } = some .outer := by decide

/-- A decoded marker of zeros scores `8 - popcount 0x1D = 4 < 7`: sub-cause 2, OFFSET plus 1. -/
theorem test_decAsm_rejects :
    after (fun s => s.results.map Record.sub) .seqDecAsm { framed .decAsm with dec := some (List.replicate 26 0) } =
      some [2] ∧
    after State.offset .seqDecAsm { framed .decAsm with dec := some (List.replicate 26 0) } = some 1 := by decide

/-- P1's block passes the parity double, and its Payload is latched. -/
theorem test_outer_decodes :
    after State.data .seqOuter { framed .outer with dec := some decoded1 } = some (some payload1) := by decide

/-- P1's CRC agrees (section 3.4). -/
theorem test_integrity_agrees :
    after State.seqState .seqIntegrity { framed .integrity with data := some payload1 } = some .decrypt := by
  decide +kernel

/-- P1 with one data byte changed: IntegrityMismatch, and OFFSET advances by `F - V = 408`. -/
theorem test_integrity_mismatch :
    after State.offset .seqIntegrity { framed .integrity with data := some (payload1.set 4 0) } = some 408 ∧
    after (fun s => s.counters.integ) .seqIntegrity { framed .integrity with data := some (payload1.set 4 0) } =
      some 1 := by decide +kernel

/-- "HELLO, SAT!" (section 3.5). -/
theorem test_decrypt_payload :
    after (fun s => s.results.map Record.payload) .seqDecrypt { framed .decrypt with data := some payload1 } =
      some [[0x48, 0x45, 0x4c, 0x4c, 0x4f, 0x2c, 0x20, 0x53, 0x41, 0x54, 0x21]] := by decide +kernel

/-- Row V4: a length of 0x0100 sets LEN_CLAMP. With no key held DECRYPT still emits its record and ends the attempt; only
the payload's bytes are free (log entry 9). -/
theorem test_decrypt_corners :
    after (fun s => s.flags.lenClamp) .seqDecrypt { framed .decrypt with data := some ((payload1.set 0 0).set 1 1) } =
      some true ∧
    let s := { framed .decrypt with data := some payload1, key := none }
    after State.seqState .seqDecrypt s = some .scanning ∧
    after (fun t => t.results.map fun r => r.payload.length) .seqDecrypt s = some [11] := by decide +kernel

/-! ### Components -/

/-- Section 3.4: P1's CRC is `2297EA69`. -/
theorem test_crc_payload : crc32 ((payload1.drop 2).take 18) = 0x2297EA69 := by decide +kernel

/-- Section 3.6. -/
theorem test_keyParse_forms :
    (keyParse "  000102030405060708090A0B0C0D0E0F\n".toList).map bytesOfBlock =
      some [0, 1, 2, 3, 4, 5, 6, 7, 8, 9, 10, 11, 12, 13, 14, 15] ∧
    (keyParse "0x00, 0x01,0x02,0x03,0x04,0x05,0x06,0x07,0x08,0x09,0x0a,0x0b,0x0c,0x0d,0x0e,0x0f".toList).map
      bytesOfBlock = some [0, 1, 2, 3, 4, 5, 6, 7, 8, 9, 10, 11, 12, 13, 14, 15] := by decide +kernel

theorem test_keyParse_malformed :
    keyParse "00010203".toList = none ∧ keyParse "0x0,0x01".toList = none ∧
    keyParse "0x00,0x01,0x02,0x03,0x04,0x05,0x06,0x07,0x08,0x09,0x0a,0x0b,0x0c,0x0d,0x0e,0x0f,".toList = none ∧
    keyParse "000102030405060708090a0b0c0d0e0g".toList = none := by decide +kernel

/-- P1's record. -/
def record1 : Record where
  code := .ok
  sub := 0
  mode := .streaming
  offset := 5
  cscore := 16
  dscore := 8
  icorr := 0
  ocorr := 0
  payload := [0x48, 0x45, 0x4c, 0x4c, 0x4f, 0x2c, 0x20, 0x53, 0x41, 0x54, 0x21]

/-- Section 3.7: P1's record in 9 words. -/
theorem test_record_words :
    recordWords record1 = [0x0000000B, 5, 0x10, 8, 0, 0, 0x4C4C4548, 0x53202C4F, 0x00215441] := by decide +kernel

/-- 30_encoding.md R106 and R107: `PUSH_BITS 4, 0b1011` is `1003B000`, `PUSH_BYTE 0xA5` sends `1 0 1 0 0 1 0 1`. -/
theorem test_assembler :
    (assembleLine "PUSH_BITS 4, 0b1011 ; four bits".toList).map (List.map encode) = some [.command 0x1003B000] ∧
    (assembleLine "PUSH_BYTE 0xA5".toList).map (List.flatMap rawBitsOf) =
      some [true, false, true, false, false, true, false, true] ∧
    assembleLine "PUSH_BITS 17, 0".toList = none := by decide +kernel

/-! ### Witnesses: for each obligation with hypotheses, a case that meets them -/

/-- A state of `c` in streaming mode with a whole frame of zero bits, every latch written and a candidate seen. -/
def heldAt (c : Config) (st : SeqState) : State :=
  { idle0 with
    seqState := st
    buf := List.replicate c.F false
    buflen := BitVec.ofNat 32 c.F
    dec := some (List.replicate c.DB 0)
    data := some (List.replicate c.K 0)
    pass := { eval := true, candSeen := true } }

theorem heldAt_buflen {c : Config} (h : c.F < 2 ^ 32) (st : SeqState) : (heldAt c st).buflen.toNat = c.F := by
  simp only [heldAt, BitVec.toNat_ofNat]
  exact Nat.mod_eq_of_lt h

/-- Such a state satisfies the invariant. -/
theorem heldAt_inv {c : Config} (legal : c.Legal) (h : c.F < 2 ^ 32) {st : SeqState} (hs : st ≠ .cfgError) :
    Inv c (heldAt c st) := by
  have len := heldAt_buflen h st
  have streaming : (heldAt c st).mode ≠ .datagram := by
    show Mode.streaming ≠ Mode.datagram
    decide
  refine ⟨?_, Nat.zero_le _, ?_, ?_, ?_, ?_, ?_, ?_, ?_, ?_, ?_, ?_, ?_, ?_, ?_, ?_, ?_, ?_, ?_⟩
  · simp only [Memory.wf, len]
    simp [heldAt]
  · rw [len]
    have := legal.numbers.2.2.2.2.2.2.2.2.2.2
    omega
  · intro _
    rw [len]
    exact Nat.le_of_eq (Nat.zero_add _)
  · have cause : (heldAt c st).cfgCause = 0 := by
      show (State.resetAt tc).cfgCause = 0
      decide
    simp only [cause, ne_eq, not_true_eq_false, iff_false]
    exact hs
  · intro _
    show (State.resetAt tc).key ≠ none
    decide
  · exact fun _ => ⟨_, rfl, by simp⟩
  · exact fun _ => ⟨_, rfl, by simp⟩
  · exact fun _ => rfl
  · exact fun hm => absurd hm streaming
  · exact fun hm => absurd hm streaming
  · exact fun hm => absurd hm streaming
  · exact fun _ => ⟨rfl, rfl, rfl⟩
  · exact fun _ => ⟨rfl, rfl⟩
  · exact fun _ => rfl
  · exact fun _ => rfl
  · exact fun _ _ => rfl
  · intro r hr
    exact absurd hr (List.not_mem_nil)
  · show (State.resetAt tc).cfgCause.toNat ≤ 3
    decide

/-- The machine's frame length as a register value. -/
theorem machine_F : Config.machine.F < 2 ^ 32 := Config.machine_frameFits

theorem witness_DecodeEncodeRoundTrip :
    (Instr.reservedOp 8 0).wellFormed = true ∧ (Instr.pushBits 15 0xFFFF).wellFormed = true := by decide

theorem witness_EncodeDecodeRoundTrip :
    decode (.command 0x1003B000) = .ok (.pushBits 3 0xB000) ∧ decode (.seq 0x6) = .ok .seqDecrypt := by decide

theorem witness_StepRunsAcceptedCommand :
    let s := { idle0 with port := [0x20000000], turns := [Turn.core] }
    coreTurn s = true ∧ acceptsCommands s.seqState = true ∧ s.port = 0x20000000 :: [] ∧
      decode (.command 0x20000000) = .ok .scan := by decide

theorem witness_StepRunsSequencerState :
    let s := { idle0 with seqState := SeqState.inner, port := [0x20000000] }
    coreTurn s = true ∧ (acceptsCommands s.seqState = true → s.port = []) ∧
      decode (.seq s.seqState.code) = .ok .seqInner := by decide

/-- `50000002` (row K8) matches no row. -/
theorem witness_StepRefusesReservedField :
    let s := { idle0 with port := [0x50000002] }
    coreTurn s = true ∧ acceptsCommands s.seqState = true ∧ s.port = 0x50000002 :: [] ∧
      ((0x50000002 : Word).extractLsb' 28 4).toNat < 8 ∧
      ∀ j : Instr, j.row.matchesCode (.command 0x50000002) = false := by
  refine ⟨rfl, rfl, rfl, by decide, fun j => ?_⟩
  cases j <;> rfl

theorem witness_BusyStepHoldsCommands :
    coreTurn (framed .scanning) = true ∧ acceptsCommands (framed .scanning).seqState = false := by decide

/-- Each removal with an entry waiting and with none, and a reset. -/
theorem witness_OutsideAgentsTurns :
    ({ idle0 with turns := [Turn.takeResult], results := [record1] }.turns = .takeResult :: [] ∧
      { idle0 with turns := [Turn.takeResult], results := [record1] }.results = record1 :: []) ∧
    ({ idle0 with turns := [Turn.takeResult] }.turns = .takeResult :: [] ∧ idle0.results = []) ∧
    ({ idle0 with turns := [Turn.takeResponse], responses := [7] }.turns = .takeResponse :: [] ∧
      { idle0 with turns := [Turn.takeResponse], responses := [7] }.responses = 7 :: []) ∧
    ({ idle0 with turns := [Turn.takeResponse] }.turns = .takeResponse :: [] ∧ idle0.responses = []) ∧
    { idle0 with turns := [Turn.reset] }.turns = .reset :: [] :=
  ⟨⟨rfl, rfl⟩, ⟨rfl, rfl⟩, ⟨rfl, rfl⟩, ⟨rfl, rfl⟩, rfl⟩

/-- Each clause of the reset cause: rows K18, K20, K21 and TC itself. -/
theorem witness_ResetLeavesStatedValues :
    keyParse "0x00,0x01".toList = none ∧
    (keyParse tc.keyText ≠ none ∧ { tc with innerAvailable := false }.innerAvailable = false) ∧
    (keyParse tc.keyText ≠ none ∧ tc.innerAvailable = true ∧
      { tc with outerAvailable := false }.outerAvailable = false) ∧
    (keyParse tc.keyText ≠ none ∧ tc.innerAvailable = true ∧ tc.outerAvailable = true) ∧
    (State.resetAt tc).cfgCause = 0 ∧ (State.resetAt { tc with innerAvailable := false }).cfgCause ≠ 0 := by decide

/-- TC is legal; with `D = 8`, no multiple of 16, its numbers are not. -/
theorem witness_BootRefusesIllegalGeometry : tc.Legal ∧ ¬({ tc with D := 8 }.D % 16 = 0) :=
  ⟨tc_legal, by decide⟩

/-- TC with codecs that answer one byte whatever their input. -/
def shortCodecs : Config :=
  { tc with innerDecode := fun _ => some ([0], 0), outerDecode := fun _ => some ([0], 0) }

theorem witness_BootRefusesWrongLengthCodecs :
    ((List.replicate 52 (0 : Byte)).length = shortCodecs.FB ∧
      shortCodecs.innerDecode (List.replicate 52 0) = some ([0], 0) ∧ ([0] : Bytes).length ≠ shortCodecs.DB) ∧
    ((List.replicate 25 (0 : Byte)).length = shortCodecs.N ∧
      shortCodecs.outerDecode (List.replicate 25 0) = some ([0], 0) ∧ ([0] : Bytes).length ≠ shortCodecs.K) := by
  refine ⟨⟨by decide, rfl, by decide⟩, by decide, rfl, by decide⟩

/-- TC boots; with a codec of another output length it is refused (00_scope.md R9, U4). -/
theorem test_boot :
    boot tc = .next (State.resetAt tc) ∧ boot shortCodecs = .refused .illegalConfiguration := by
  refine ⟨boot_legal tc_legal, boot_illegal fun h => ?_⟩
  have short := h.outerLength (List.replicate 25 0) [0] 0 (by decide) rfl
  exact absurd short (by decide)

theorem witness_PushBitsAppendsDecodedBits :
    idle0.seqState ≠ .cfgError ∧
    idle0.buflen.toNat - idle0.offset.toNat + ((15 : BitVec 4).toNat + 1) ≤ Config.machine.BUF_CAP ∧
    idle0.buflen.toNat + ((15 : BitVec 4).toNat + 1) ≤ 2 ^ 32 - 1 := by
  refine ⟨by decide, ?_, by decide⟩
  have n := Config.machine_legal.numbers
  have big : 16 ≤ Config.machine.F := by
    have := n.1
    have := n.2.1
    have k : Config.machine.K ≤ Config.machine.N := n.2.2.2.2.2.2.1
    simp only [Config.F, Config.K] at *
    omega
  exact Nat.le_trans (show 0 - 0 + (15 + 1) ≤ Config.machine.F from big) n.2.2.2.2.2.2.2.2.2.2

/-- Each way not to fit: past the 32-bit BUFLEN, and past the capacity, shown under TC. -/
theorem witness_PushBitsOverflowDropsWhole :
    idle0.seqState ≠ .cfgError ∧
    2 ^ 32 - 1 < { idle0 with buflen := 0xFFFFFFFF }.buflen.toNat + ((0 : BitVec 4).toNat + 1) ∧
    tc.BUF_CAP < { idle0 with buflen := 1024 }.buflen.toNat - idle0.offset.toNat + ((0 : BitVec 4).toNat + 1) := by
  decide

theorem witness_ScanStartsPass :
    idle0.seqState ≠ .cfgError ∧ idle0.mode = .streaming ∧
    { idle0 with mode := Mode.datagram }.seqState ≠ .cfgError ∧ { idle0 with mode := Mode.datagram }.mode = .datagram := by
  decide

/-- Exactly F bits, and none. -/
theorem witness_DgramStartsAttempt :
    (heldAt Config.machine .idle).seqState ≠ .cfgError ∧
    { heldAt Config.machine .idle with mode := Mode.datagram }.mode = .datagram ∧
    (heldAt Config.machine .idle).buflen.toNat = Config.machine.F ∧
    { idle0 with mode := Mode.datagram }.buflen.toNat ≠ Config.machine.F ∧ idle0.mode = .streaming := by
  refine ⟨by simp [heldAt], rfl, heldAt_buflen machine_F _, ?_, rfl⟩
  have := Config.machine_legal.F_pos
  show 0 ≠ Config.machine.F
  omega

/-- RESET_STREAM, SET_MODE and CLEAR outside CFG_ERROR. -/
theorem witness_outside_cfgError : idle0.seqState ≠ .cfgError := by decide

theorem witness_ReadRegUnmappedRespondsZero : (0x0F : BitVec 8) ≤ 0x0F ∧ (0x0F : BitVec 8) ≤ 0xFF := by decide

theorem witness_CfgErrorRefusesCommands :
    { idle0 with seqState := SeqState.cfgError }.seqState = .cfgError ∧
    (∃ nm1 data, Instr.pushBits 0 0 = .pushBits nm1 data) ∧ (∃ m, Instr.setMode .streaming = .setMode m) ∧
    ∃ cnt flg, Instr.clear true true = .clear cnt flg :=
  ⟨rfl, ⟨0, 0, rfl⟩, ⟨_, rfl⟩, _, _, rfl⟩

theorem witness_ScanningEndsPass : idle0.buflen.toNat - idle0.offset.toNat < Config.machine.F :=
  Config.machine_legal.F_pos

theorem witness_ScanningScoresWindow :
    Config.machine.F ≤ (heldAt Config.machine .scanning).buflen.toNat - (heldAt Config.machine .scanning).offset.toNat := by
  rw [heldAt_buflen machine_F]
  exact Nat.le_refl _

theorem witness_InnerDecodesRawFrame :
    (heldAt Config.machine .inner).offset.toNat + Config.machine.F ≤ (heldAt Config.machine .inner).buflen.toNat := by
  rw [heldAt_buflen machine_F]
  exact Nat.le_of_eq (Nat.zero_add _)

/-- DEC_ASM, OUTER, INTEGRITY and DECRYPT with their latches written. -/
theorem witness_latches_written :
    (framed .decAsm).dec = none ∧ (framed .decrypt).data = none ∧ { framed .decAsm with dec := some decoded1 }.dec = some decoded1 ∧
    { framed .decrypt with data := some payload1 }.data = some payload1 ∧ (framed .decrypt).key ≠ none := by
  refine ⟨rfl, rfl, rfl, rfl, ?_⟩
  decide

/-- StopsAreTheNamedFaults: each fault's condition, and DECRYPT with no key held, which is none of them. -/
theorem witness_StopsAreTheNamedFaults :
    idle0.buflen.toNat < idle0.offset.toNat + Config.machine.F ∧ idle0.dec = none ∧ idle0.data = none ∧
    { framed .decrypt with data := some payload1, key := none }.data ≠ none := by
  refine ⟨?_, rfl, rfl, by simp⟩
  have := Config.machine_legal.F_pos
  show 0 < 0 + Config.machine.F
  omega

/-- BufIsAppendOnly: a datagram attempt whose marker fails ends in IDLE, and the same attempt in streaming mode does not
discard. -/
theorem witness_BufIsAppendOnly :
    let s := { framed .decAsm with dec := some (List.replicate 26 0), mode := Mode.datagram }
    let r := { framed .decAsm with dec := some (List.replicate 26 0) }
    after State.seqState .seqDecAsm s = some .idle ∧ after State.buf .seqDecAsm s = some [] ∧
    after State.seqState .seqDecAsm r = some .scanning ∧ after State.buf .seqDecAsm r = some r.buf := by decide +kernel

/-- StepKeepsInvariant and SoundStateAlwaysSteps: a sound state in the middle of an attempt. -/
theorem witness_StepKeepsInvariant :
    Inv Config.machine (heldAt Config.machine .decrypt) ∧ ∃ t, step (heldAt Config.machine .decrypt) = .next t :=
  ⟨heldAt_inv Config.machine_legal machine_F (by decide), _, rfl⟩

/-- The statements about an instruction that answers a next state: one that emits, and one that does not. -/
theorem witness_exec_next :
    (∃ t, exec .seqDecrypt (heldAt Config.machine .decrypt) = .next t) ∧ exec .nop idle0 = .next idle0 ∧
    (∃ t, exec (.pushBits 2 0xA000) idle0 = .next t) ∧ ∀ cnt flg, Instr.seqDecrypt ≠ .clear cnt flg :=
  ⟨⟨_, rfl⟩, rfl, ⟨_, rfl⟩, by simp⟩

theorem witness_StepFollowsStateGraph :
    coreTurn (heldAt Config.machine .decrypt) = true ∧ ∃ t, step (heldAt Config.machine .decrypt) = .next t :=
  ⟨rfl, _, rfl⟩

theorem witness_CfgErrorLastsUntilReset :
    let s := { idle0 with seqState := SeqState.cfgError, cfgCause := 1, port := [0x20000000] }
    s.seqState = .cfgError ∧ s.turns.head? ≠ some .reset ∧ ∃ t, step s = .next t :=
  ⟨rfl, by decide, _, rfl⟩

/-- A pass that ends, and an attempt that returns to SCANNING with OFFSET moved on. -/
theorem witness_PassNeverRescans :
    (Inv Config.machine (heldAt Config.machine .decrypt) ∧ (heldAt Config.machine .decrypt).mode = .streaming ∧
      coreTurn (heldAt Config.machine .decrypt) = true ∧
      acceptsCommands (heldAt Config.machine .decrypt).seqState = false ∧
      ∃ t, step (heldAt Config.machine .decrypt) = .next t ∧ t.seqState = .scanning) ∧
    ∃ t, step { idle0 with seqState := SeqState.scanning } = .next t ∧ t.seqState = .idle := by
  refine ⟨⟨heldAt_inv Config.machine_legal machine_F (by decide), rfl, rfl, rfl, _, rfl, rfl⟩, ?_⟩
  have short : remaining (afterTurn { idle0 with seqState := SeqState.scanning }) < Config.machine.F :=
    Config.machine_legal.F_pos
  refine ⟨passEnd (afterTurn { idle0 with seqState := SeqState.scanning }), ?_, rfl⟩
  rw [step, turnStep_core rfl, coreStep_sequencer (by decide)]
  show Host.Outcome.next (scanningEffect Config.machine _) = _
  rw [scanningEffect, if_pos short]

/-- Under TC: a pass over one frame, and a datagram attempt. -/
theorem witness_PassAndAttemptTerminate :
    tc.Legal ∧ Inv tc (heldAt tc .scanning) ∧ (heldAt tc .scanning).turns = [] ∧
    (heldAt tc .scanning).seqState = .scanning ∧
    ∃ s, Inv tc s ∧ s.turns = [] ∧ s.mode = .datagram ∧ s.seqState = .inner := by
  have fits : tc.F < 2 ^ 32 := by decide
  have i := heldAt_inv tc_legal fits (st := .inner) (by decide)
  refine ⟨tc_legal, heldAt_inv tc_legal fits (by decide), rfl, rfl, { heldAt tc .inner with mode := .datagram }, ?_,
    rfl, rfl, rfl⟩
  exact ⟨i.1, i.2, i.3, i.4, i.5, i.6, i.7, i.8, fun _ => rfl, by decide, fun _ _ => rfl, fun _ _ => rfl, i.13, i.14,
    i.15, i.16, fun hm => absurd hm (by decide), i.18, i.19⟩

/-- A stream of one zero bit, the convolved marker and zeros, `F + 1` bits in all. -/
def offsetMarker : State :=
  { heldAt tc .scanning with
    buf := false :: [false, false, false, false, false, false, true, true, true, true, true, true, false, false, true, true] ++
      List.replicate 400 false
    buflen := 417 }

/-- Under TC the first window that passes is at offset 1. -/
theorem witness_ScannerTakesFirstMatch :
    tc.Legal ∧ Inv tc offsetMarker ∧ offsetMarker.turns = [] ∧ offsetMarker.seqState = .scanning ∧
    offsetMarker.offset.toNat ≤ 1 ∧ 1 + tc.F ≤ offsetMarker.buflen.toNat ∧ windowPasses tc offsetMarker.buf 1 = true ∧
    ∀ o, offsetMarker.offset.toNat ≤ o → o < 1 → windowPasses tc offsetMarker.buf o = false := by
  have i := heldAt_inv tc_legal (by decide : tc.F < 2 ^ 32) (st := .scanning) (by decide)
  refine ⟨tc_legal, ?_, rfl, rfl, by decide, by decide, by decide +kernel, ?_⟩
  · exact ⟨by decide +kernel, by decide, by decide, by decide, i.5, i.6, i.7, i.8, i.9, i.10, i.11, i.12, i.13, i.14,
      i.15, i.16, i.17, i.18, i.19⟩
  · intro o _ h
    have zero : o = 0 := by omega
    subst zero
    decide +kernel

/-- P1's frame without its prefix: each bit of the DecodedFrame twice (95_test_vectors.md section 1). -/
def frame1 : Bits := (unpack decoded1).flatMap fun b => [b, b]

/-- Two copies of it, one after the other. -/
def twoFrames : State := { heldAt tc .scanning with buf := frame1 ++ frame1, buflen := 832 }

theorem validFrame_twoFrames {o : Nat} (h : o = 0 ∨ o = 416) : ValidFrame tc twoFrames.buf o := by
  have dec : tc.innerDecode (pack (slice twoFrames.buf o tc.F)) = some (decoded1, 0) := by
    rcases h with rfl | rfl <;> decide +kernel
  refine ⟨?_, decoded1, 0, payload1, 0, dec, by decide +kernel, by decide +kernel, by decide +kernel⟩
  rcases h with rfl | rfl <;> decide +kernel

/-- Under TC, with no gap: none of the `V = 8` offsets before the second frame passes. -/
theorem witness_BackToBackFramesDecode :
    tc.Legal ∧ Inv tc twoFrames ∧ twoFrames.turns = [] ∧ twoFrames.seqState = .scanning ∧
    ValidFrame tc twoFrames.buf twoFrames.offset.toNat ∧
    ValidFrame tc twoFrames.buf (twoFrames.offset.toNat + tc.F + 0) ∧
    twoFrames.offset.toNat + 2 * tc.F + 0 ≤ twoFrames.buflen.toNat ∧
    ∀ p, twoFrames.offset.toNat + tc.F - tc.V ≤ p → p < twoFrames.offset.toNat + tc.F + 0 →
      windowPasses tc twoFrames.buf p = false := by
  have i := heldAt_inv tc_legal (by decide : tc.F < 2 ^ 32) (st := .scanning) (by decide)
  refine ⟨tc_legal, ?_, rfl, rfl, validFrame_twoFrames (.inl rfl), validFrame_twoFrames (.inr rfl), by decide, ?_⟩
  · exact ⟨by decide +kernel, by decide, by decide, by decide, i.5, i.6, i.7, i.8, i.9, i.10, i.11, i.12, i.13, i.14,
      i.15, i.16, i.17, i.18, i.19⟩
  · intro p h1 h2
    have range : ∀ k < 8, windowPasses tc twoFrames.buf (408 + k) = false := by decide +kernel
    have near := range (p - 408)
    change 408 ≤ p at h1
    change p < 416 at h2
    rw [Nat.add_sub_cancel' h1] at near
    exact near (by omega)

/-- Under TC: an exact copy of the convolved marker. -/
theorem witness_WindowScoreCountsAgreement :
    tc.Legal ∧ 1 + tc.W ≤ offsetMarker.buf.length ∧ toInt ((offsetMarker.buf.drop 1).take tc.W) = tc.CASM :=
  ⟨tc_legal, by decide +kernel, by decide +kernel⟩

theorem witness_PackUnpackAreInverse : ([true, false, true, false, false, true, false, true] : Bits).length % 8 = 0 := by
  decide

/-- Under TC: the first and the last byte of the range, and both bytes of the length field. -/
theorem witness_CrcDetectsByteChange :
    payload1.length = tc.K ∧ (2 ≤ 2 ∧ 2 < tc.K - 4 ∧ payload1.getD 2 0 ≠ 0) ∧
    (2 ≤ 19 ∧ 19 < tc.K - 4 ∧ payload1.getD 19 0 ≠ 0) ∧ (0 : Nat) < 2 ∧ (1 : Nat) < 2 := by decide

/-- The one block of TC, byte by byte. -/
theorem witness_CbcDecryptInvertsEncrypt :
    tc.Legal ∧ (List.replicate 16 (0xA5 : Byte)).length = tc.D ∧ 0 < tc.D / 16 ∧
    ∀ i < 16, blockByte (blockOfBytes (List.replicate 16 0xA5)) i = (List.replicate 16 (0xA5 : Byte)).getD (16 * 0 + i) 0 :=
  ⟨tc_legal, by decide, by decide, by decide⟩

/-- One text of each form. -/
theorem witness_KeyParseGrammar :
    ',' ∉ trimBoth isKeySpace "000102030405060708090a0b0c0d0e0f".toList ∧
    ',' ∈ trimBoth isKeySpace "0x00,0x01".toList := by decide

theorem witness_SerializedRecordLayout : record1.payload.length < 2 ^ 16 := by decide

/-- Both bounds of the operands of PUSH_BITS, and each way past them. -/
theorem witness_AssembledPushesDeliverTheirBits :
    ((1 ≤ 1 ∧ 1 ≤ 16 ∧ 1 < 2 ^ 1) ∧ (1 ≤ 16 ∧ 16 ≤ 16 ∧ 65535 < 2 ^ 16)) ∧
    ¬(1 ≤ 0 ∧ 0 ≤ 16 ∧ 0 < 2 ^ 0) ∧ ¬(1 ≤ 17 ∧ 17 ≤ 16 ∧ 0 < 2 ^ 17) ∧ ¬(1 ≤ 4 ∧ 4 ≤ 16 ∧ 16 < 2 ^ 4) := by decide

end Sys2Proof.Tests
end

section
/-! PROOFS. The core only appends to its output FIFOs (00_scope.md R18, 20_memory.md R85): every operation commutes
with putting entries in front of those waiting there. -/

namespace Sys2Proof.Machine

/-- The state with entries in front of those waiting in the two output FIFOs. -/
def putBefore (rs : List Record) (qs : List Word) (s : State) : State :=
  withFifos (rs ++ s.results) (qs ++ s.responses) s

section
variable {rs : List Record} {qs : List Word} {c : Config} {s : State}

/-! ### Putting entries in front -/

@[simp] theorem putBefore_mode : (putBefore rs qs s).mode = s.mode := rfl
@[simp] theorem putBefore_buflen : (putBefore rs qs s).buflen = s.buflen := rfl
@[simp] theorem putBefore_offset : (putBefore rs qs s).offset = s.offset := rfl
@[simp] theorem putBefore_buf : (putBefore rs qs s).buf = s.buf := rfl
@[simp] theorem putBefore_dec : (putBefore rs qs s).dec = s.dec := rfl
@[simp] theorem putBefore_data : (putBefore rs qs s).data = s.data := rfl

@[simp] theorem remaining_putBefore : remaining (putBefore rs qs s) = remaining s := rfl
@[simp] theorem heldKey_putBefore : heldKey c (putBefore rs qs s) = heldKey c s := rfl
@[simp] theorem pushFits_putBefore (n : Nat) : pushFits c n (putBefore rs qs s) = pushFits c n s := rfl
@[simp] theorem registerAt_putBefore (a : BitVec 8) : registerAt c a (putBefore rs qs s) = registerAt c a s := rfl

theorem putBefore_empty : putBefore rs qs (withFifos [] [] s) = withFifos rs qs s := by
  simp [putBefore, withFifos]

/-- Entries put in front of two FIFOs are those before the appended ones. -/
theorem withFifos_drop_putBefore (rs' : List Record) (qs' : List Word) :
    withFifos (rs' ++ (putBefore rs qs s).results.drop rs.length) (qs' ++ (putBefore rs qs s).responses.drop qs.length)
      (putBefore rs qs s) = putBefore rs' qs' s := by
  simp [putBefore, withFifos]

/-! ### The shared operations -/

@[simp] theorem setFlag_putBefore (f : StickyFlag) :
    setFlag f (putBefore rs qs s) = putBefore rs qs (setFlag f s) := rfl

@[simp] theorem refuseCommand_putBefore :
    refuseCommand (putBefore rs qs s) = putBefore rs qs (refuseCommand s) := rfl

@[simp] theorem streamReset_putBefore : streamReset (putBefore rs qs s) = putBefore rs qs (streamReset s) := rfl

@[simp] theorem datagramStart_putBefore : datagramStart (putBefore rs qs s) = putBefore rs qs (datagramStart s) := rfl

@[simp] theorem respond_putBefore (w : Word) :
    respond w (putBefore rs qs s) = putBefore rs qs (respond w s) := by
  simp [respond, putBefore, withFifos]

@[simp] theorem report_putBefore (code : ResultCode) (sub : BitVec 4) (p : Bytes) :
    report code sub p (putBefore rs qs s) = putBefore rs qs (report code sub p s) := by
  simp [report, emit, recordOf, putBefore, withFifos]

@[simp] theorem finish_putBefore (n : Nat) : finish n (putBefore rs qs s) = putBefore rs qs (finish n s) := by
  cases hm : s.mode <;> simp only [finish, putBefore_mode, hm] <;> rfl

@[simp] theorem finishFail_putBefore : finishFail (putBefore rs qs s) = putBefore rs qs (finishFail s) :=
  finish_putBefore 1

@[simp] theorem finishSuccess_putBefore :
    finishSuccess c (putBefore rs qs s) = putBefore rs qs (finishSuccess c s) :=
  finish_putBefore (c.F - c.V)

@[simp] theorem pushRaw_putBefore (bits : Bits) :
    pushRaw c bits (putBefore rs qs s) = putBefore rs qs (pushRaw c bits s) := by
  rw [pushRaw_eq, pushRaw_eq]
  rfl

theorem unlessCfgError_putBefore {act : State → State} (h : act (putBefore rs qs s) = putBefore rs qs (act s)) :
    unlessCfgError act (putBefore rs qs s) = putBefore rs qs (unlessCfgError act s) := by
  by_cases hs : s.seqState = .cfgError
  · rw [unlessCfgError_refuses hs, unlessCfgError_refuses (s := putBefore rs qs s) hs, refuseCommand_putBefore]
  · rw [unlessCfgError_acts hs, unlessCfgError_acts (s := putBefore rs qs s) hs, h]

theorem passEnd_putBefore : passEnd (putBefore rs qs s) = putBefore rs qs (passEnd s) := by
  by_cases hp : s.pass.eval = true ∧ s.pass.candSeen = false
  · rw [passEnd_emits hp.1 hp.2, passEnd_emits (s := putBefore rs qs s) hp.1 hp.2, report_putBefore]
    rfl
  · rw [passEnd_silent hp, passEnd_silent (s := putBefore rs qs s) hp]
    rfl

/-! ### Commands -/

theorem pushBitsEffect_putBefore (nm1 : BitVec 4) (data : BitVec 16) :
    pushBitsEffect c nm1 data (putBefore rs qs s) = putBefore rs qs (pushBitsEffect c nm1 data s) := by
  cases fits : pushFits c (pushCount nm1) s <;> simp [pushBitsEffect, fits]

theorem scanEffect_putBefore : scanEffect (putBefore rs qs s) = putBefore rs qs (scanEffect s) := by
  cases hm : s.mode <;> simp only [scanEffect, putBefore_mode, hm] <;> rfl

theorem dgramEffect_putBefore : dgramEffect c (putBefore rs qs s) = putBefore rs qs (dgramEffect c s) := by
  cases hm : s.mode with
  | streaming => simp [dgramEffect, hm]
  | datagram => by_cases whole : s.buflen.toNat = c.F <;> simp [dgramEffect, hm, whole]

theorem setModeEffect_putBefore (m : Mode) :
    setModeEffect m (putBefore rs qs s) = putBefore rs qs (setModeEffect m s) := rfl

theorem readRegEffect_putBefore (a : BitVec 8) :
    readRegEffect c a (putBefore rs qs s) = putBefore rs qs (readRegEffect c a s) := by
  cases hr : registerAt c a s <;> simp [readRegEffect, hr]

theorem clearEffect_putBefore (cnt flg : Bool) :
    clearEffect cnt flg (putBefore rs qs s) = putBefore rs qs (clearEffect cnt flg s) := by
  rw [clearEffect_eq, clearEffect_eq]
  rfl

/-! ### Sequencer steps -/

theorem evaluateWindow_putBefore : evaluateWindow c (putBefore rs qs s) = putBefore rs qs (evaluateWindow c s) := by
  cases passes : windowPasses c s.buf s.offset.toNat <;>
    simp only [evaluateWindow, putBefore_buf, putBefore_offset, passes] <;> rfl

theorem scanningEffect_putBefore : scanningEffect c (putBefore rs qs s) = putBefore rs qs (scanningEffect c s) := by
  by_cases short : remaining s < c.F
  · simp [scanningEffect, short, passEnd_putBefore]
  · simp [scanningEffect, short, evaluateWindow_putBefore]

theorem innerEffect_putBefore (raw : Bits) :
    innerEffect c raw (putBefore rs qs s) = putBefore rs qs (innerEffect c raw s) := by
  cases decoded : c.innerDecode (pack raw) with
  | none => simp [innerEffect, decoded, frameError]
  | some r => simp only [innerEffect, decoded]; rfl

theorem decAsmEffect_putBefore (dec : Bytes) :
    decAsmEffect c dec (putBefore rs qs s) = putBefore rs qs (decAsmEffect c dec s) := by
  by_cases below : decodedScore c dec < c.T_D
  · simp only [decAsmEffect, below, if_true, frameError, ← finishFail_putBefore, ← report_putBefore]
    rfl
  · simp only [decAsmEffect, below, if_false]
    rfl

theorem outerEffect_putBefore (dec : Bytes) :
    outerEffect c dec (putBefore rs qs s) = putBefore rs qs (outerEffect c dec s) := by
  cases decoded : c.outerDecode (outerBlock c dec) with
  | none => simp [outerEffect, decoded, frameError]
  | some r => simp only [outerEffect, decoded]; rfl

theorem integrityEffect_putBefore (data : Bytes) :
    integrityEffect c data (putBefore rs qs s) = putBefore rs qs (integrityEffect c data s) := by
  cases intact : checksumMatches c data with
  | false => simp [integrityEffect, intact, frameError]
  | true => simp only [integrityEffect, intact]; rfl

theorem decryptEffect_putBefore (key : Block) (data : Bytes) :
    decryptEffect c key data (putBefore rs qs s) = putBefore rs qs (decryptEffect c key data s) := by
  by_cases clamped : c.D < (parse c data).len <;> simp [decryptEffect, clamped]

/-! ### Outcomes -/

theorem innerStep_putBefore : innerStep c (putBefore rs qs s) = mapNext (putBefore rs qs) (innerStep c s) := by
  have read : bufRead (putBefore rs qs s) s.offset.toNat c.F = bufRead s s.offset.toNat c.F := rfl
  cases h : bufRead s s.offset.toNat c.F <;> simp [innerStep, read, h, mapNext, innerEffect_putBefore]

theorem decAsmStep_putBefore : decAsmStep c (putBefore rs qs s) = mapNext (putBefore rs qs) (decAsmStep c s) := by
  cases held : s.dec <;> simp [decAsmStep, held, mapNext, decAsmEffect_putBefore]

theorem outerStep_putBefore : outerStep c (putBefore rs qs s) = mapNext (putBefore rs qs) (outerStep c s) := by
  cases held : s.dec <;> simp [outerStep, held, mapNext, outerEffect_putBefore]

theorem integrityStep_putBefore :
    integrityStep c (putBefore rs qs s) = mapNext (putBefore rs qs) (integrityStep c s) := by
  cases held : s.data <;> simp [integrityStep, held, mapNext, integrityEffect_putBefore]

theorem decryptStep_putBefore : decryptStep c (putBefore rs qs s) = mapNext (putBefore rs qs) (decryptStep c s) := by
  cases held : s.data <;> simp [decryptStep, held, mapNext, decryptEffect_putBefore]

/-- Every instruction commutes with putting entries in front of those waiting. -/
theorem execAt_putBefore (i : Instr) :
    execAt c i (putBefore rs qs s) = mapNext (putBefore rs qs) (execAt c i s) := by
  cases i with
  | nop => rfl
  | pushBits nm1 data => exact congrArg _ (unlessCfgError_putBefore (pushBitsEffect_putBefore nm1 data))
  | scan => exact congrArg _ (unlessCfgError_putBefore scanEffect_putBefore)
  | dgram => exact congrArg _ (unlessCfgError_putBefore dgramEffect_putBefore)
  | resetStream => exact congrArg _ (unlessCfgError_putBefore streamReset_putBefore)
  | setMode m => exact congrArg _ (unlessCfgError_putBefore (setModeEffect_putBefore m))
  | readReg a => exact congrArg _ (readRegEffect_putBefore a)
  | clear cnt flg => exact congrArg _ (unlessCfgError_putBefore (clearEffect_putBefore cnt flg))
  | reservedOp _ _ => rfl
  | seqScanning => exact congrArg _ scanningEffect_putBefore
  | seqInner => exact innerStep_putBefore
  | seqDecAsm => exact decAsmStep_putBefore
  | seqOuter => exact outerStep_putBefore
  | seqIntegrity => exact integrityStep_putBefore
  | seqDecrypt => exact decryptStep_putBefore
  | seqCfgError => rfl

end

/-- Settles O43: both runs are the run from empty FIFOs with each run's own entries put in front of what it appends. -/
theorem coreNeverReadsFifos : Obligations.CoreNeverReadsFifos := by
  intro i s rs qs
  have fromEmpty (rs : List Record) (qs : List Word) :
      exec i (withFifos rs qs s) = mapNext (putBefore rs qs) (exec i (withFifos [] [] s)) := by
    rw [← putBefore_empty, exec_eq_execAt, exec_eq_execAt, execAt_putBefore]
  have own : exec i s = mapNext (putBefore s.results s.responses) (exec i (withFifos [] [] s)) :=
    fromEmpty s.results s.responses
  rw [fromEmpty, own]
  cases exec i (withFifos [] [] s) with
  | next t => exact congrArg _ (withFifos_drop_putBefore rs qs).symm
  | fault r => rfl
  | refused r => rfl

end Sys2Proof.Machine
end

section
/-! PROOFS. Pack and Unpack are inverse (00_scope.md R13, R14). -/

namespace Sys2Proof.Machine

/-! ### ToInt -/

/-- ToInt loses nothing of a sequence of known length (00_scope.md R13). -/
theorem toInt_injective {a b : Bits} (len : a.length = b.length) (h : toInt a = toInt b) : a = b := by
  induction a generalizing b with
  | nil => exact (List.eq_nil_of_length_eq_zero len.symm).symm
  | cons x xs ih =>
    obtain _ | ⟨y, ys⟩ := b
    · cases len
    · have tails : xs.length = ys.length := Nat.succ.inj len
      have xs_lt := toInt_lt xs
      have ys_lt := toInt_lt ys
      rw [toInt_cons, toInt_cons, tails] at h
      rw [tails] at xs_lt
      obtain rfl : x = y := by
        cases x <;> cases y <;> simp [bitNat] at h ⊢ <;> omega
      exact congrArg (x :: ·) (ih tails (Nat.add_left_cancel h))

/-! ### One byte and its bits -/

/-- The bits of a byte are its binary digits, the most significant first (00_scope.md R13, R14). -/
theorem toInt_byteBits (b : Byte) : toInt (byteBits b) = b.toNat := by
  revert b
  decide

/-- Eight bits fit in a byte. -/
theorem toNat_ofNat_toInt {s : Bits} (len : s.length = 8) : (BitVec.ofNat 8 (toInt s)).toNat = toInt s := by
  have bound := toInt_lt s
  rw [len] at bound
  rw [BitVec.toNat_ofNat, Nat.mod_eq_of_lt bound]

theorem byteBits_ofNat_toInt {s : Bits} (len : s.length = 8) : byteBits (BitVec.ofNat 8 (toInt s)) = s :=
  toInt_injective len.symm (by rw [toInt_byteBits, toNat_ofNat_toInt len])

/-! ### Pack and Unpack -/

theorem pack_byteBits_append (b : Byte) (s : Bits) : pack (byteBits b ++ s) = b :: pack s := by
  have head : BitVec.ofNat 8 (toInt (byteBits b)) = b := by rw [toInt_byteBits, BitVec.ofNat_toNat, BitVec.setWidth_eq]
  exact congrArg (· :: pack s) head

/-- A sequence Pack takes no group of eight bits from has fewer than eight. -/
theorem length_div_eight_of_no_group {s : Bits}
    (short : ∀ b0 b1 b2 b3 b4 b5 b6 b7 rest, s = b0 :: b1 :: b2 :: b3 :: b4 :: b5 :: b6 :: b7 :: rest → False) :
    s.length / 8 = 0 := by
  rw [← pack_length, pack.eq_2 s short, List.length_nil]

theorem pack_unpack (b : Bytes) : pack (unpack b) = b := by
  induction b with
  | nil => rfl
  | cons x rest ih => rw [unpack, pack_byteBits_append, ih]

theorem unpack_pack {s : Bits} (whole : s.length % 8 = 0) : unpack (pack s) = s := by
  fun_induction pack s with
  | case1 b0 b1 b2 b3 b4 b5 b6 b7 rest ih =>
    simp only [List.length_cons] at whole
    rw [unpack, byteBits_ofNat_toInt rfl, ih (by omega)]
    rfl
  | case2 s short =>
    have few := length_div_eight_of_no_group short
    exact (List.eq_nil_of_length_eq_zero (by omega)).symm

/-- Byte `j` of Pack is ToInt of group `j` of eight bits (00_scope.md R14). -/
theorem pack_getD {s : Bits} {j : Nat} (h : j < s.length / 8) :
    ((pack s).getD j 0).toNat = toInt ((s.drop (8 * j)).take 8) := by
  fun_induction pack s generalizing j with
  | case1 b0 b1 b2 b3 b4 b5 b6 b7 rest ih =>
    cases j with
    | zero => exact toNat_ofNat_toInt rfl
    | succ j =>
      simp only [List.length_cons] at h
      exact ih (by omega)
  | case2 s short =>
    have few := length_div_eight_of_no_group short
    omega

/-- Settles O54: one byte and its eight bits are the same number, and Pack and Unpack go byte by byte. -/
theorem packUnpackAreInverse : Obligations.PackUnpackAreInverse := by
  refine ⟨pack_unpack, fun s => unpack_pack, fun s => ⟨pack_length s, fun j => pack_getD⟩, fun b s => ?_⟩
  cases b <;> simp [toInt_cons, bitNat]

end Sys2Proof.Machine
end

section
/-! PROOFS. The boundary of the model (00_scope.md R7, R9). -/

namespace Sys2Proof.Machine

/-- Settles O13: a configuration boots exactly when it is legal, and a legal one meets the numbers of R7. -/
theorem bootRefusesIllegalGeometry : Obligations.BootRefusesIllegalGeometry :=
  fun _ => ⟨boot_legal, fun broken => boot_illegal fun legal => broken legal.numbers⟩

end Sys2Proof.Machine
end

section
/-! PROOFS. Where the machine stops (10_state.md R43, 20_memory.md R72): each fault at its own step, and no step of a
sound state. -/

namespace Sys2Proof.Machine

variable {c : Config} {s : State}

/-! ### The steps that read BUF, DEC or DATA -/

theorem innerStep_inside (inside : s.offset.toNat + c.F ≤ s.buflen.toNat) :
    innerStep c s = .next (innerEffect c (slice s.buf s.offset.toNat c.F) s) := by
  rw [innerStep, bufRead_ok (Nat.le_refl _) inside]

theorem innerStep_pastEnd (short : s.buflen.toNat < s.offset.toNat + c.F) :
    innerStep c s = .fault .bufReadOutOfRange := by
  rw [innerStep, bufRead_error fun ⟨_, inside⟩ => Nat.not_le.2 short inside]

theorem decAsmStep_written {dec : Bytes} (held : s.dec = some dec) :
    decAsmStep c s = .next (decAsmEffect c dec s) := by
  rw [decAsmStep, held]

theorem decAsmStep_unwritten (unwritten : s.dec = none) : decAsmStep c s = .fault .unwrittenDec := by
  rw [decAsmStep, unwritten]

theorem outerStep_written {dec : Bytes} (held : s.dec = some dec) : outerStep c s = .next (outerEffect c dec s) := by
  rw [outerStep, held]

theorem outerStep_unwritten (unwritten : s.dec = none) : outerStep c s = .fault .unwrittenDec := by
  rw [outerStep, unwritten]

theorem integrityStep_written {data : Bytes} (held : s.data = some data) :
    integrityStep c s = .next (integrityEffect c data s) := by
  rw [integrityStep, held]

theorem integrityStep_unwritten (unwritten : s.data = none) : integrityStep c s = .fault .unwrittenData := by
  rw [integrityStep, unwritten]

theorem decryptStep_written {data : Bytes} (held : s.data = some data) :
    decryptStep c s = .next (decryptEffect c (heldKey c s) data s) := by
  rw [decryptStep, held]

theorem decryptStep_unwritten (unwritten : s.data = none) : decryptStep c s = .fault .unwrittenData := by
  rw [decryptStep, unwritten]

/-- Settles O35: the five steps that read BUF, DEC or DATA stop where the read has no value, and nothing else does. -/
theorem stopsAreTheNamedFaults : Obligations.StopsAreTheNamedFaults := by
  intro i s
  refine ⟨?_, ?_, ?_, fun inside decHeld dataHeld => ?_⟩
  · rintro ⟨rfl, short⟩
    exact innerStep_pastEnd short
  · rintro ⟨rfl | rfl, unwritten⟩
    · exact decAsmStep_unwritten unwritten
    · exact outerStep_unwritten unwritten
  · rintro ⟨rfl | rfl, unwritten⟩
    · exact integrityStep_unwritten unwritten
    · exact decryptStep_unwritten unwritten
  · cases i with
    | seqInner => exact ⟨_, innerStep_inside (Nat.not_lt.1 fun short => inside ⟨rfl, short⟩)⟩
    | seqDecAsm =>
      obtain ⟨dec, held⟩ := Option.ne_none_iff_exists'.1 fun unwritten => decHeld ⟨.inl rfl, unwritten⟩
      exact ⟨_, decAsmStep_written held⟩
    | seqOuter =>
      obtain ⟨dec, held⟩ := Option.ne_none_iff_exists'.1 fun unwritten => decHeld ⟨.inr rfl, unwritten⟩
      exact ⟨_, outerStep_written held⟩
    | seqIntegrity =>
      obtain ⟨data, held⟩ := Option.ne_none_iff_exists'.1 fun unwritten => dataHeld ⟨.inl rfl, unwritten⟩
      exact ⟨_, integrityStep_written held⟩
    | seqDecrypt =>
      obtain ⟨data, held⟩ := Option.ne_none_iff_exists'.1 fun unwritten => dataHeld ⟨.inr rfl, unwritten⟩
      exact ⟨_, decryptStep_written held⟩
    | _ => exact ⟨_, rfl⟩

/-! ### The steps of a sound state -/

/-- An accepted word runs a command or is refused, and every command answers a next state. -/
theorem acceptWord_answers (w : Word) (s : State) : ∃ t, acceptWord exec w s = .next t := by
  unfold acceptWord
  split
  next i decoded =>
    rcases decodeCommand_ok decoded with ⟨-, -, rfl⟩ | ⟨-, -, rfl⟩ | ⟨-, -, rfl⟩ | ⟨-, -, rfl⟩ | ⟨-, -, rfl⟩ |
      ⟨-, -, rfl⟩ | ⟨-, -, rfl⟩ | ⟨-, -, rfl⟩ | ⟨-, rfl⟩ <;> exact ⟨_, rfl⟩
  next => exact ⟨_, rfl⟩

/-- The sequencer runs the step of SEQ_STATE (46_resync_sequencer.md R280). -/
theorem sequencerStep_runs {ex : Instr → State → Host.Outcome State Fault Refusal} {i : Instr}
    (selected : s.seqState.step = some i) : sequencerStep ex s = ex i s := by
  rw [sequencerStep, decode_seq_code, selected]

/-- In IDLE the sequencer's step changes nothing (60_exceptions.md R334; log entry 5). -/
theorem sequencerStep_idle {ex : Instr → State → Host.Outcome State Fault Refusal} (idle : s.seqState = .idle) :
    sequencerStep ex s = .next s := by
  rw [sequencerStep, decode_seq_code, idle]
  rfl

/-- In a sound state what the sequencer's step reads is there: a whole frame, DEC or DATA. -/
theorem sequencerStep_answers (sound : Inv Config.machine s) : ∃ t, sequencerStep exec s = .next t := by
  cases hs : s.seqState with
  | idle => exact ⟨_, sequencerStep_idle hs⟩
  | scanning => exact ⟨_, sequencerStep_runs (congrArg SeqState.step hs)⟩
  | inner =>
    have inside := sound.frameInside (congrArg attempting hs)
    exact ⟨_, (sequencerStep_runs (congrArg SeqState.step hs)).trans (innerStep_inside inside)⟩
  | decAsm =>
    obtain ⟨dec, held, -⟩ := sound.decHeld (.inl hs)
    exact ⟨_, (sequencerStep_runs (congrArg SeqState.step hs)).trans (decAsmStep_written held)⟩
  | outer =>
    obtain ⟨dec, held, -⟩ := sound.decHeld (.inr hs)
    exact ⟨_, (sequencerStep_runs (congrArg SeqState.step hs)).trans (outerStep_written held)⟩
  | integrity =>
    obtain ⟨data, held, -⟩ := sound.dataHeld (.inl hs)
    exact ⟨_, (sequencerStep_runs (congrArg SeqState.step hs)).trans (integrityStep_written held)⟩
  | decrypt =>
    obtain ⟨data, held, -⟩ := sound.dataHeld (.inr hs)
    exact ⟨_, (sequencerStep_runs (congrArg SeqState.step hs)).trans (decryptStep_written held)⟩
  | cfgError => exact ⟨_, sequencerStep_runs (congrArg SeqState.step hs)⟩

theorem coreStep_answers (sound : Inv Config.machine s) : ∃ t, coreStep exec s = .next t := by
  by_cases held : acceptsCommands s.seqState = true → s.port = []
  · rw [coreStep_sequencer held]
    exact sequencerStep_answers sound
  · obtain ⟨accepts, waiting⟩ := Classical.not_imp.1 held
    obtain ⟨w, rest, port⟩ := List.exists_cons_of_ne_nil waiting
    rw [coreStep_accept accepts port]
    exact acceptWord_answers w _

/-- Settles O38: the other agents' steps never stop, and the core's reads only what the invariant says is there. -/
theorem soundStateAlwaysSteps : Obligations.SoundStateAlwaysSteps := by
  intro s sound
  cases turn : coreTurn s with
  | true =>
    rw [step, turnStep_core turn]
    exact coreStep_answers (sound.withTurns _)
  | false =>
    rcases turnStep_outside turn with removed | removed | wasReset
    · exact ⟨_, removed⟩
    · exact ⟨_, removed⟩
    · exact ⟨_, wasReset⟩

end Sys2Proof.Machine
end

section
/-! PROOFS. The codes of SEQ_STATE, the fields of STATUS and the agents outside the core (10_state.md R32, R45, R47,
R48). -/

namespace Sys2Proof

theorem SeqState.ofCode_eq_some_iff (k : BitVec 4) (st : SeqState) : SeqState.ofCode k = some st ↔ st.code = k := by
  cases st <;> revert k <;> decide

theorem SeqState.ofCode_eq_none_iff (k : BitVec 4) : SeqState.ofCode k = none ↔ 0x7 ≤ k ∧ k ≤ 0xE := by
  revert k
  decide

theorem Mode.bit_eq_true_iff (m : Mode) : m.bit = true ↔ m = .datagram := by
  cases m <;> decide

/-- Settles O6: code by code. -/
theorem seqStateCodes : Obligations.SeqStateCodes :=
  ⟨rfl, rfl, rfl, rfl, rfl, rfl, rfl, rfl,
    fun k => ⟨SeqState.ofCode_eq_none_iff k, SeqState.ofCode_eq_some_iff k⟩⟩

namespace Machine

/-! ### STATUS -/

theorem cfgErrBit_eq_true_iff (s : State) : cfgErrBit s = true ↔ s.seqState = .cfgError :=
  decide_eq_true_iff

/-- Bit `i` of STATUS, field by field (10_state.md R45). -/
theorem statusWord_getLsbD (s : State) (i : Nat) : (statusWord s).getLsbD i =
    if i < 4 then s.seqState.code.getLsbD i
    else if i < 5 then cfgErrBit s
    else if i < 8 then s.cfgCause.getLsbD (i - 5)
    else if i < 9 then s.flags.ovf
    else if i < 10 then s.flags.cmdErr
    else if i < 11 then s.flags.dlenErr
    else if i < 12 then s.flags.lenClamp
    else if i < 13 then s.mode.bit
    else false := by
  refine (BitVec.getLsbD_append ..).trans ?_
  simp only [BitVec.append_ofBool, BitVec.getLsbD_concat, BitVec.getLsbD_append, BitVec.getLsbD_zero, Nat.sub_sub]
  repeat' refine if_congr (by omega) rfl ?_
  rfl

/-- Settles O23: each field holds the bits of its source. -/
theorem statusFields : Obligations.StatusFields := by
  intro s
  refine ⟨?_, ?_, ?_, ?_, ?_, ?_, ?_, ?_, ?_⟩
  · refine BitVec.eq_of_getLsbD_eq fun i hi => ?_
    simp [statusWord_getLsbD, hi]
  · rw [statusWord_getLsbD]
    exact cfgErrBit_eq_true_iff s
  · refine BitVec.eq_of_getLsbD_eq fun i hi => ?_
    have above : ¬5 + i < 4 ∧ ¬5 + i < 5 ∧ 5 + i < 8 := by omega
    rw [BitVec.getLsbD_extractLsb', statusWord_getLsbD, if_neg above.1, if_neg above.2.1, if_pos above.2.2]
    simp [hi]
  · exact statusWord_getLsbD s 8
  · exact statusWord_getLsbD s 9
  · exact statusWord_getLsbD s 10
  · exact statusWord_getLsbD s 11
  · rw [statusWord_getLsbD]
    exact Mode.bit_eq_true_iff s.mode
  · refine BitVec.eq_of_getLsbD_eq fun i hi => ?_
    have above (n : Nat) (h : n ≤ 13) : ¬13 + i < n := by omega
    simp [statusWord_getLsbD, above]

/-! ### CONSUMER and the platform -/

variable {s : State} {ts : List Turn}

theorem step_takeResult (turn : s.turns = .takeResult :: ts) :
    step s = .next { s with turns := ts, results := s.results.drop 1 } := by
  rw [step, turnStep, turn]
  rfl

theorem step_takeResponse (turn : s.turns = .takeResponse :: ts) :
    step s = .next { s with turns := ts, responses := s.responses.drop 1 } := by
  rw [step, turnStep, turn]
  rfl

theorem step_reset (turn : s.turns = .reset :: ts) :
    step s = .next { State.reset with port := s.port, turns := ts } := by
  rw [step, turnStep, turn]
  rfl

/-- Settles O11: a removal leaves what stands behind the head, and that is the FIFO itself where there is none. -/
theorem outsideAgentsTurns : Obligations.OutsideAgentsTurns := by
  intro s ts
  refine ⟨fun r rest turn waiting => ?_, fun turn empty => ?_, fun w rest turn waiting => ?_, fun turn empty => ?_,
    step_reset⟩
  · rw [step_takeResult turn, waiting]
    rfl
  · have same : s.results.drop 1 = s.results := by rw [empty]; rfl
    rw [step_takeResult turn, same]
  · rw [step_takeResponse turn, waiting]
    rfl
  · have same : s.responses.drop 1 = s.responses := by rw [empty]; rfl
    rw [step_takeResponse turn, same]

end Machine

end Sys2Proof
end

section
/-! PROOFS. Which instruction writes which register (10_state.md R31 to R48): every instruction makes one of the
updates below, and the statements about registers are read off the updates. -/

namespace Sys2Proof.Machine

open Sys2Proof.Claims

/-- The updates an instruction can make, in the named operations. The conditions and the values stand in the inversion
lemmas of Laws/Exec.lean; what is written does not depend on them. -/
inductive Update (s : State) : Instr → State → Prop where
  | nop : Update s .nop s
  | refuse {i : Instr} {w : Word} (command : encode i = .command w) (acts : i ≠ .nop) : Update s i (refuseCommand s)
  | push (nm1 : BitVec 4) (data : BitVec 16) (c : Config) (bits : Bits) :
      Update s (.pushBits nm1 data) (pushRaw c bits s)
  | overflow (nm1 : BitVec 4) (data : BitVec 16) : Update s (.pushBits nm1 data) (setFlag .ovf s)
  | scan : Update s .scan { clearPassFlags s with seqState := .scanning }
  | datagramStart : Update s .dgram (datagramStart s)
  | datagramLength : Update s .dgram (streamReset (setFlag .dlenErr s))
  | resetStream : Update s .resetStream (streamReset s)
  | setMode (m : Mode) : Update s (.setMode m) (streamReset { s with mode := m })
  | register (a : BitVec 8) (w : Word) : Update s (.readReg a) (respond w s)
  | unmapped (a : BitVec 8) : Update s (.readReg a) (refuseCommand (respond 0 s))
  | clear (cnt flg : Bool) : Update s (.clear cnt flg) (clearEffect cnt flg s)
  | passSilent : Update s .seqScanning { s with seqState := .idle }
  | passMissed : Update s .seqScanning { report .syncNotFound 0 [] s with seqState := .idle }
  | candidate (l : Latches) (p : PassFlags) : Update s .seqScanning (attemptStart { s with latches := l, pass := p })
  | noCandidate (l : Latches) (p : PassFlags) : Update s .seqScanning (advance 1 { s with latches := l, pass := p })
  | inner (dec : Bytes) (n : Word) : Update s .seqInner
      { s with dec := some dec, latches := { s.latches with icorr := n }, seqState := .decAsm }
  | innerFails : Update s .seqInner (finish 1 (report .innerDecodeFailure 1 [] s))
  | decAsm (score : Word) : Update s .seqDecAsm
      { s with latches := { s.latches with dscore := score }, seqState := .outer }
  | decAsmFails (score : Word) : Update s .seqDecAsm
      (finish 1 (report .innerDecodeFailure 2 [] { s with latches := { s.latches with dscore := score } }))
  | outer (data : Bytes) (n : Word) : Update s .seqOuter
      { s with data := some data, latches := { s.latches with ocorr := n }, seqState := .integrity }
  | outerFails : Update s .seqOuter (finish 1 (report .outerDecodeFailure 0 [] s))
  | integrity : Update s .seqIntegrity { s with seqState := .decrypt }
  | integrityFails (n : Nat) : Update s .seqIntegrity (finish n (report .integrityMismatch 0 [] s))
  | decrypt (n : Nat) (payload : Bytes) : Update s .seqDecrypt (finish n (report .ok 0 payload s))
  | decryptClamps (n : Nat) (payload : Bytes) :
      Update s .seqDecrypt (finish n (report .ok 0 payload (setFlag .lenClamp s)))
  | cfgError : Update s .seqCfgError s

variable {i : Instr} {s t : State}

/-! ### Every instruction makes one of them -/

theorem update_of_execAt {c : Config} (h : execAt c i s = .next t) : Update s i t := by
  cases i with
  | nop =>
    obtain rfl := execAt_nop_cases h
    exact .nop
  | pushBits nm1 data =>
    rcases execAt_pushBits_cases h with ⟨-, rfl⟩ | ⟨-, -, rfl⟩ | ⟨-, -, rfl⟩
    · exact .refuse rfl nofun
    · exact .push nm1 data c _
    · exact .overflow nm1 data
  | scan =>
    rcases execAt_scan_cases h with ⟨-, rfl⟩ | ⟨-, -, rfl⟩
    · exact .refuse rfl nofun
    · exact .scan
  | dgram =>
    rcases execAt_dgram_cases h with ⟨-, rfl⟩ | ⟨-, -, -, rfl⟩ | ⟨-, -, -, rfl⟩
    · exact .refuse rfl nofun
    · exact .datagramStart
    · exact .datagramLength
  | resetStream =>
    rcases execAt_resetStream_cases h with ⟨-, rfl⟩ | ⟨-, rfl⟩
    · exact .refuse rfl nofun
    · exact .resetStream
  | setMode m =>
    rcases execAt_setMode_cases h with ⟨-, rfl⟩ | ⟨-, rfl⟩
    · exact .refuse rfl nofun
    · exact .setMode m
  | readReg a =>
    rcases execAt_readReg_cases h with ⟨w, -, rfl⟩ | ⟨-, rfl⟩
    · exact .register a w
    · exact .unmapped a
  | clear cnt flg =>
    rcases execAt_clear_cases h with ⟨-, rfl⟩ | ⟨-, rfl⟩
    · exact .refuse rfl nofun
    · exact .clear cnt flg
  | reservedOp op ignored =>
    obtain rfl := execAt_reservedOp_cases h
    exact .refuse rfl nofun
  | seqScanning =>
    rcases execAt_seqScanning_cases h with ⟨-, rfl⟩ | ⟨passes, -, -, rfl⟩
    · by_cases missed : s.pass.eval = true ∧ s.pass.candSeen = false
      · rw [passEnd_emits missed.1 missed.2]
        exact .passMissed
      · rw [passEnd_silent missed]
        exact .passSilent
    · cases passes with
      | true => exact .candidate _ _
      | false => exact .noCandidate _ _
  | seqInner =>
    rcases execAt_seqInner_cases h with ⟨-, ⟨-, rfl⟩ | ⟨dec, n, -, rfl⟩⟩
    · exact .innerFails
    · exact .inner dec _
  | seqDecAsm =>
    rcases execAt_seqDecAsm_cases h with ⟨dec, -, ⟨-, rfl⟩ | ⟨-, rfl⟩⟩
    · exact .decAsmFails _
    · exact .decAsm _
  | seqOuter =>
    rcases execAt_seqOuter_cases h with ⟨dec, -, ⟨-, rfl⟩ | ⟨data, n, -, rfl⟩⟩
    · exact .outerFails
    · exact .outer data _
  | seqIntegrity =>
    rcases execAt_seqIntegrity_cases h with ⟨data, -, ⟨-, rfl⟩ | ⟨-, rfl⟩⟩
    · exact .integrity
    · exact .integrityFails _
  | seqDecrypt =>
    obtain ⟨data, -, rfl⟩ := execAt_seqDecrypt_cases h
    split
    · exact .decryptClamps _ _
    · exact .decrypt _ _
  | seqCfgError =>
    obtain rfl := execAt_seqCfgError_cases h
    exact .cfgError

theorem update_of_exec (h : exec i s = .next t) : Update s i t :=
  update_of_execAt (exec_eq_execAt i s ▸ h)

/-! ### Registers and flags -/

/-- Settles O40: an update names the registers it writes, and each is one of its instruction's. -/
theorem registersHaveTheirWriters : Obligations.RegistersHaveTheirWriters := by
  intro i s t h
  cases update_of_exec h with
  | push => simp [pushRaw_eq]
  | clear cnt flg => cases cnt <;> simp [clearEffect_eq]
  | _ => simp [canEmptyStream, attemptStep]

/-- Settles O41: an update that touches the flags sets its instruction's own one, or is CLEAR with FLG = 1. -/
theorem stickyFlagsHaveTheirWriters : Obligations.StickyFlagsHaveTheirWriters := by
  intro i s t h
  cases update_of_exec h with
  | refuse command acts => simp [command, acts]
  | push => simp [pushRaw_eq]
  | unmapped => simp [encode]
  | clear cnt flg => cases flg <;> simp [clearEffect_eq]
  | _ => simp

/-! ### Records and counters -/

/-- An instruction other than CLEAR leaves the counters and the RESULT FIFO, or counts the one record it emits. -/
theorem Update.records (u : Update s i t) (notClear : ∀ cnt flg, i ≠ .clear cnt flg) :
    (t.results = s.results ∧ t.counters = s.counters) ∨
      ∃ r, t.results = s.results ++ [r] ∧ t.counters = countResult r.code s.counters := by
  cases u with
  | push => simp [pushRaw_eq]
  | clear cnt flg => exact absurd rfl (notClear cnt flg)
  | _ => simp

theorem countOf_nil (code : ResultCode) : countOf code [] = 0 := rfl

/-- Counting a record adds its number to every counter: 1 to the counter of its code, 0 to the others. -/
theorem countResult_eq (r : Record) (k : Counters) : countResult r.code k =
    { ok := k.ok + countOf .ok [r]
      sync := k.sync + countOf .syncNotFound [r]
      inner := k.inner + countOf .innerDecodeFailure [r]
      outer := k.outer + countOf .outerDecodeFailure [r]
      integ := k.integ + countOf .integrityMismatch [r] } := by
  cases code : r.code <;> simp [countResult, countOf, code]

/-- Settles O42: the records added are none, or the one record that was counted. -/
theorem countersCountRecords : Obligations.CountersCountRecords := by
  intro i s t h notClear
  rcases (update_of_exec h).records notClear with ⟨results, counters⟩ | ⟨r, results, counters⟩
  · exact ⟨[], by simp [results, counters, countOf_nil]⟩
  · exact ⟨[r], by simp [results, counters, countResult_eq]⟩

end Sys2Proof.Machine
end

section
/-! PROOFS. Every step keeps the invariant of the core (20_memory.md R73 to R75; 10_state.md R37 to R43): the updates
that keep it, one lemma an update, and then the steps. -/

namespace Sys2Proof.Machine

variable {c : Config} {s t : State}

/-! ### Where commands are accepted -/

theorem attempting_of_accepts {st : SeqState} (accepts : acceptsCommands st = true) : attempting st = false := by
  cases st with
  | idle | cfgError => rfl
  | _ => cases accepts

theorem ne_scanning_of_accepts {st : SeqState} (accepts : acceptsCommands st = true) : st ≠ .scanning := by
  rintro rfl
  cases accepts

/-- No attempt runs, so the state is none of the attempt's. -/
theorem ne_of_not_attempting {st st' : SeqState} (waiting : attempting st = false) (running : attempting st' = true) :
    st ≠ st' := by
  rintro rfl
  exact Bool.false_ne_true (waiting.symm.trans running)

/-! ### Reset -/

theorem resetCause_ne_zero_of_no_key (noKey : resetKey c = none) : resetCause c ≠ 0 := by
  simp [resetCause, noKey]

theorem resetCause_le (c : Config) : (resetCause c).toNat ≤ 3 := by
  unfold resetCause
  split_ifs <;> decide

theorem resetSeqState_eq_cfgError_iff : resetSeqState c = .cfgError ↔ resetCause c ≠ 0 := by
  simp [resetSeqState]

theorem acceptsCommands_resetSeqState (c : Config) : acceptsCommands (resetSeqState c) = true := by
  unfold resetSeqState
  split_ifs <;> rfl

/-- Reset has no attempt, no bits and no records, and records a cause exactly in CFG_ERROR (70_reset_and_hazards.md
R360, R362). -/
theorem inv_resetAt (c : Config) : Inv c (State.resetAt c) := by
  have waiting : attempting (State.resetAt c).seqState = false :=
    attempting_of_accepts (acceptsCommands_resetSeqState c)
  have apart (st : SeqState) (running : attempting st = true) : (State.resetAt c).seqState ≠ st :=
    ne_of_not_attempting waiting running
  exact {
    bufForm := rfl
    offsetBound := Nat.le_refl 0
    capacity := Nat.zero_le _
    frameInside := by simp [waiting]
    cause := resetSeqState_eq_cfgError_iff
    keyHeld := fun ready noKey => ready (resetSeqState_eq_cfgError_iff.2 (resetCause_ne_zero_of_no_key noKey))
    decHeld := Or.rec (absurd · (apart _ rfl)) (absurd · (apart _ rfl))
    dataHeld := Or.rec (absurd · (apart _ rfl)) (absurd · (apart _ rfl))
    datagramOffset := fun _ => rfl
    datagramScan := nofun
    datagramScore := nofun
    datagramPrev := nofun
    innerLatches := fun _ => ⟨rfl, rfl, rfl⟩
    decAsmLatches := fun _ => ⟨rfl, rfl⟩
    outerLatches := fun _ => rfl
    passFlags := nofun
    streamingAttempt := by simp [waiting]
    records := nofun
    causeCode := resetCause_le c }

/-! ### Updates outside an attempt -/

/-- Outside an attempt the latches are free. -/
theorem Inv.withLatches (h : Inv c s) (waiting : attempting s.seqState = false) (l : Latches) :
    Inv c { s with latches := l } :=
  { h with
    datagramScore := by simp [waiting]
    innerLatches := fun e => absurd e (ne_of_not_attempting waiting rfl)
    decAsmLatches := fun e => absurd e (ne_of_not_attempting waiting rfl)
    outerLatches := fun e => absurd e (ne_of_not_attempting waiting rfl) }

/-- Outside an attempt the pass flags are free, but for their order (10_state.md R40). -/
theorem Inv.withPass (h : Inv c s) (waiting : attempting s.seqState = false) {p : PassFlags}
    (order : p.candSeen = true → p.eval = true) : Inv c { s with pass := p } :=
  { h with passFlags := order, streamingAttempt := by simp [waiting] }

/-- The mode of an empty stream is free where commands are accepted (40_host_commands.md R151). -/
theorem Inv.withMode (h : Inv c s) (accepts : acceptsCommands s.seqState = true) (offset : s.offset = 0)
    (prev : s.prevBit = false) (m : Mode) : Inv c { s with mode := m } :=
  have waiting := attempting_of_accepts accepts
  { h with
    datagramOffset := fun _ => offset
    datagramScan := fun _ => ne_scanning_of_accepts accepts
    datagramScore := by simp [waiting]
    datagramPrev := fun _ _ => prev
    streamingAttempt := by simp [waiting] }

theorem Inv.clearFlags (h : Inv c s) : Inv c (clearFlags s) :=
  h.withFlags _

theorem Inv.clearCounts (h : Inv c s) (waiting : attempting s.seqState = false) : Inv c (clearCounts s) :=
  Inv.withCounters (h.withLatches waiting { cscore := 0, dscore := 0, icorr := 0, ocorr := 0 }) _

theorem Inv.clearEffect (h : Inv c s) (waiting : attempting s.seqState = false) (cnt flg : Bool) :
    Inv c (clearEffect cnt flg s) := by
  cases cnt <;> cases flg
  · exact h
  · exact h.clearFlags
  · exact h.clearCounts waiting
  · exact h.clearFlags.clearCounts waiting

/-- A push that fits keeps the bounds of BUF, and PREV_BIT where datagram bits are not decoded (20_memory.md R73 to
R75, 41_diff_decoder.md R180). -/
theorem Inv.pushRaw (h : Inv c s) {bits : Bits} (fits : pushFits c bits.length s = true) :
    Inv c (pushRaw c bits s) := by
  have form := pushRaw_memory_wf h.bufForm fits
  have grown := buflen_add fits
  have room := (pushFits_iff.1 fits).1
  have bound := h.offsetBound
  rw [remaining] at room
  have bound' : s.offset.toNat ≤ (s.buflen + BitVec.ofNat 32 bits.length).toNat := by omega
  have capacity' : (s.buflen + BitVec.ofNat 32 bits.length).toNat - s.offset.toNat ≤ c.BUF_CAP := by omega
  rw [pushRaw_eq] at form ⊢
  exact { h with
    bufForm := form
    offsetBound := bound'
    capacity := capacity'
    frameInside := fun running => (h.frameInside running).trans (grown ▸ Nat.le_add_right ..)
    datagramPrev := fun mode raw => by
      have undecoded : diffApplies c s.mode = false := (congrArg (diffApplies c) mode).trans raw
      rw [diffDecodeAll_raw undecoded]
      exact h.datagramPrev mode raw }

/-! ### Passes and attempts -/

/-- SCAN starts a pass in streaming mode (40_host_commands.md R143). -/
theorem Inv.startPass (h : Inv c s) (waiting : attempting s.seqState = false) (ready : s.seqState ≠ .cfgError)
    (mode : s.mode = .streaming) : Inv c { clearPassFlags s with seqState := .scanning } := by
  have cleared : Inv c (clearPassFlags s) := h.withPass waiting nofun
  simpa [Machine.advance] using cleared.advance (n := 0) mode ready h.offsetBound

theorem Inv.passEnd (h : Inv c s) (scanning : s.seqState = .scanning) : Inv c (passEnd s) := by
  have ready : s.seqState ≠ .cfgError := by simp [scanning]
  by_cases missed : s.pass.eval = true ∧ s.pass.candSeen = false
  · rw [passEnd_emits missed.1 missed.2]
    exact (h.report rfl (Nat.zero_le _) (fun _ => rfl) fun mode => absurd scanning (h.datagramScan mode)).toIdle ready
  · rw [passEnd_silent missed]
    exact h.toIdle ready

/-- An attempt starts on a whole frame (42_scanner.md R204), on a candidate in streaming mode, and with convolved score
0 in datagram mode (46_resync_sequencer.md R282, R287). -/
theorem Inv.attemptStart (h : Inv c s) (ready : s.seqState ≠ .cfgError)
    (frame : s.offset.toNat + c.F ≤ s.buflen.toNat) (score : s.mode = .datagram → s.latches.cscore = 0)
    (candidate : s.mode = .streaming → s.pass.candSeen = true) : Inv c (attemptStart s) :=
  { h with
    frameInside := fun _ => frame
    cause := by simp [h.cause_zero ready]
    keyHeld := fun _ => h.keyHeld ready
    decHeld := by simp
    dataHeld := by simp
    datagramScan := by simp
    datagramScore := fun mode _ => score mode
    innerLatches := fun _ => ⟨rfl, rfl, rfl⟩
    decAsmLatches := by simp
    outerLatches := by simp
    streamingAttempt := fun mode _ => candidate mode }

theorem Inv.datagramStart (h : Inv c s) (waiting : attempting s.seqState = false) (ready : s.seqState ≠ .cfgError)
    (mode : s.mode = .datagram) (whole : s.buflen.toNat = c.F) : Inv c (datagramStart s) := by
  refine (h.withLatches waiting _).attemptStart ready ?_ (fun _ => rfl) (by simp [mode])
  simp [h.datagramOffset mode, whole]

/-- An attempt moves on to its next stage with what that stage reads written, and the latches of the stages after it
still 0 (10_state.md R42, R43). -/
theorem Inv.nextStage (h : Inv c s) (running : attempting s.seqState = true) {st : SeqState} {dec data : Option Bytes}
    {l : Latches} (target : attempting st = true) (later : st ≠ .inner)
    (decHeld : st = .decAsm ∨ st = .outer → holdsBytes dec c.DB)
    (dataHeld : st = .integrity ∨ st = .decrypt → holdsBytes data c.K)
    (score : l.cscore = s.latches.cscore) (decAsmLatches : st = .decAsm → l.dscore = 0 ∧ l.ocorr = 0)
    (outerLatches : st = .outer → l.ocorr = 0) :
    Inv c { s with dec := dec, data := data, latches := l, seqState := st } :=
  have ready := attempting_ne_cfgError running
  have ready' : st ≠ .cfgError := attempting_ne_cfgError (s := { s with seqState := st }) target
  { h with
    frameInside := fun _ => h.frameInside running
    cause := by simp [h.cause_zero ready, ready']
    keyHeld := fun _ => h.keyHeld ready
    decHeld := decHeld
    dataHeld := dataHeld
    datagramScan := fun _ scanning => by simp [show st = .scanning from scanning, attempting] at target
    datagramScore := fun mode _ => score.trans (h.datagramScore mode running)
    innerLatches := fun e => absurd e later
    decAsmLatches := decAsmLatches
    outerLatches := outerLatches
    streamingAttempt := fun mode _ => h.streamingAttempt mode running }

/-! ### The commands -/

theorem Inv.setFlag (h : Inv c s) (f : StickyFlag) : Inv c (setFlag f s) :=
  h.withFlags _

theorem Inv.refuseCommand (h : Inv c s) : Inv c (refuseCommand s) :=
  h.setFlag .cmdErr

theorem Inv.execAt_pushBits (h : Inv c s) {nm1 : BitVec 4} {data : BitVec 16}
    (run : execAt c (.pushBits nm1 data) s = .next t) : Inv c t := by
  rcases execAt_pushBits_cases run with ⟨-, rfl⟩ | ⟨-, fits, rfl⟩ | ⟨-, -, rfl⟩
  · exact h.refuseCommand
  · exact h.pushRaw (by rwa [pushedBits_length])
  · exact h.withFlags _

theorem Inv.execAt_scan (h : Inv c s) (waiting : attempting s.seqState = false) (run : execAt c .scan s = .next t) :
    Inv c t := by
  rcases execAt_scan_cases run with ⟨-, rfl⟩ | ⟨ready, mode, rfl⟩
  · exact h.refuseCommand
  · exact h.startPass waiting ready mode

theorem Inv.execAt_dgram (h : Inv c s) (waiting : attempting s.seqState = false) (run : execAt c .dgram s = .next t) :
    Inv c t := by
  rcases execAt_dgram_cases run with ⟨-, rfl⟩ | ⟨ready, mode, whole, rfl⟩ | ⟨-, -, -, rfl⟩
  · exact h.refuseCommand
  · exact h.datagramStart waiting ready mode whole
  · exact (h.setFlag .dlenErr).streamReset waiting

theorem Inv.execAt_resetStream (h : Inv c s) (waiting : attempting s.seqState = false)
    (run : execAt c .resetStream s = .next t) : Inv c t := by
  rcases execAt_resetStream_cases run with ⟨-, rfl⟩ | ⟨-, rfl⟩
  · exact h.refuseCommand
  · exact h.streamReset waiting

theorem Inv.execAt_setMode (h : Inv c s) (accepts : acceptsCommands s.seqState = true) {m : Mode}
    (run : execAt c (.setMode m) s = .next t) : Inv c t := by
  rcases execAt_setMode_cases run with ⟨-, rfl⟩ | ⟨-, rfl⟩
  · exact h.refuseCommand
  · exact (h.streamReset (attempting_of_accepts accepts)).withMode accepts rfl rfl m

theorem Inv.execAt_readReg (h : Inv c s) {a : BitVec 8} (run : execAt c (.readReg a) s = .next t) : Inv c t := by
  rcases execAt_readReg_cases run with ⟨w, -, rfl⟩ | ⟨-, rfl⟩
  · exact h.withResponses _
  · exact (h.withResponses _).refuseCommand

theorem Inv.execAt_clear (h : Inv c s) (waiting : attempting s.seqState = false) {cnt flg : Bool}
    (run : execAt c (.clear cnt flg) s = .next t) : Inv c t := by
  rcases execAt_clear_cases run with ⟨-, rfl⟩ | ⟨-, rfl⟩
  · exact h.refuseCommand
  · exact h.clearEffect waiting cnt flg

/-- An accepted word keeps the invariant (40_host_commands.md R140). -/
theorem Inv.acceptWord (h : Inv c s) (accepts : acceptsCommands s.seqState = true) {w : Word}
    (run : acceptWord (execAt c) w s = .next t) : Inv c t := by
  have waiting := attempting_of_accepts accepts
  unfold Machine.acceptWord at run
  split at run
  next i decoded =>
    rcases decodeCommand_ok decoded with ⟨-, -, rfl⟩ | ⟨-, -, rfl⟩ | ⟨-, -, rfl⟩ | ⟨-, -, rfl⟩ | ⟨-, -, rfl⟩ |
      ⟨-, -, rfl⟩ | ⟨-, -, rfl⟩ | ⟨-, -, rfl⟩ | ⟨-, rfl⟩
    · exact execAt_nop_cases run ▸ h
    · exact h.execAt_pushBits run
    · exact h.execAt_scan waiting run
    · exact h.execAt_dgram waiting run
    · exact h.execAt_resetStream waiting run
    · exact h.execAt_setMode accepts run
    · exact h.execAt_readReg run
    · exact h.execAt_clear waiting run
    · exact execAt_reservedOp_cases run ▸ h.refuseCommand
  next =>
    cases run
    exact h.refuseCommand

/-! ### The sequencer's steps -/

theorem Inv.execAt_seqScanning (h : Inv c s) (legal : c.Legal)
    (scanning : s.seqState = .scanning) (run : execAt c .seqScanning s = .next t) : Inv c t := by
  have waiting : attempting s.seqState = false := congrArg attempting scanning
  have ready : s.seqState ≠ .cfgError := by simp [scanning]
  have streaming : s.mode = .streaming := by
    cases mode : s.mode with
    | streaming => rfl
    | datagram => exact absurd scanning (h.datagramScan mode)
  have bound := h.offsetBound
  have F_pos := legal.F_pos
  rcases execAt_seqScanning_cases run with ⟨-, rfl⟩ | ⟨passes, frame, -, rfl⟩
  · exact h.passEnd scanning
  · rw [remaining] at frame
    have scored := (h.withLatches waiting
      { s.latches with cscore := BitVec.ofNat 32 (windowScore c s.buf s.offset.toNat) }).withPass waiting
      (p := notePass passes s.pass) fun _ => rfl
    cases passes with
    | true => exact scored.attemptStart ready (by simp; omega) (by simp [streaming]) (by simp [notePass])
    | false => exact scored.advance streaming ready (by simp; omega)

/-- The record and the end of an attempt read neither the stage nor the bytes of it. -/
theorem finish_report_stage (n : Nat) (code : ResultCode) (sub : BitVec 4) (p : Bytes) (st : SeqState) (s : State) :
    finish n (report code sub p { s with seqState := st }) = finish n (report code sub p s) := by
  rcases s with ⟨_, _, _, _, _, _, _, _, _, _, _, _, _, mode, _, _, _, _⟩
  cases mode <;> rfl

theorem Inv.execAt_seqInner (h : Inv c s) (legal : c.Legal) (stage : s.seqState = .inner)
    (run : execAt c .seqInner s = .next t) : Inv c t := by
  have running : attempting s.seqState = true := congrArg attempting stage
  rcases execAt_seqInner_cases run with ⟨inside, ⟨-, rfl⟩ | ⟨dec, n, decoded, rfl⟩⟩
  · exact h.frameError rfl running legal.F_pos
  · have form := h.bufForm
    have wholeBytes := legal.F_bytes
    have rawLength : (pack (slice s.buf s.offset.toNat c.F)).length = c.FB := by
      rw [pack_length, slice_length]
      omega
    obtain ⟨-, dscore, ocorr⟩ := h.innerLatches stage
    exact h.nextStage running rfl nofun (fun _ => ⟨dec, rfl, legal.innerLength _ _ _ rawLength decoded⟩)
      (by simp) rfl (fun _ => ⟨dscore, ocorr⟩) nofun

theorem Inv.execAt_seqDecAsm (h : Inv c s) (legal : c.Legal) (stage : s.seqState = .decAsm)
    (run : execAt c .seqDecAsm s = .next t) : Inv c t := by
  have running : attempting s.seqState = true := congrArg attempting stage
  obtain ⟨-, ocorr⟩ := h.decAsmLatches stage
  have scored (l : Word) :
      Inv c { s with latches := { s.latches with dscore := l }, seqState := .outer } :=
    h.nextStage running rfl nofun (fun _ => h.decHeld (.inl stage)) (by simp) rfl nofun fun _ => ocorr
  obtain ⟨dec, -, ⟨-, rfl⟩ | ⟨-, rfl⟩⟩ := execAt_seqDecAsm_cases run
  · rw [← finish_report_stage _ _ _ _ .outer]
    exact (scored _).frameError rfl rfl legal.F_pos
  · exact scored _

theorem Inv.execAt_seqOuter (h : Inv c s) (legal : c.Legal) (stage : s.seqState = .outer)
    (run : execAt c .seqOuter s = .next t) : Inv c t := by
  have running : attempting s.seqState = true := congrArg attempting stage
  obtain ⟨dec', held', decLength⟩ := h.decHeld (.inr stage)
  obtain ⟨dec, held, ⟨-, rfl⟩ | ⟨data, n, decoded, rfl⟩⟩ := execAt_seqOuter_cases run
  · exact h.frameError rfl running legal.F_pos
  · obtain rfl : dec' = dec := Option.some.inj (held'.symm.trans held)
    have blockLength : (outerBlock c dec').length = c.N := by
      rw [outerBlock, slice_length, decLength, Config.DB]
      omega
    exact h.nextStage running rfl nofun (by simp)
      (fun _ => ⟨data, rfl, legal.outerLength _ _ _ blockLength decoded⟩) rfl nofun nofun

theorem Inv.execAt_seqIntegrity (h : Inv c s) (stage : s.seqState = .integrity)
    (run : execAt c .seqIntegrity s = .next t) : Inv c t := by
  have running : attempting s.seqState = true := congrArg attempting stage
  obtain ⟨data, -, ⟨-, rfl⟩ | ⟨-, rfl⟩⟩ := execAt_seqIntegrity_cases run
  · exact h.nextStage running rfl nofun (by simp) (fun _ => h.dataHeld (.inl stage)) rfl nofun nofun
  · exact h.frameError rfl running (Nat.sub_le ..)

theorem Inv.execAt_seqDecrypt (h : Inv c s) (stage : s.seqState = .decrypt)
    (run : execAt c .seqDecrypt s = .next t) : Inv c t := by
  have running : attempting s.seqState = true := congrArg attempting stage
  have frame := h.frameInside running
  obtain ⟨data, -, rfl⟩ := execAt_seqDecrypt_cases run
  have sound := h.withFlags (if c.D < (parse c data).len then setSticky .lenClamp s.flags else s.flags)
  have emitted := sound.report (code := .ok) (sub := 0) rfl (okPayload_length c (heldKey c s) data) (absurd rfl)
    fun _ => running
  refine emitted.finish (attempting_ne_cfgError running) ?_
  simp only [report_offset, report_buflen]
  omega

/-- The step SEQ_STATE selects keeps the invariant (46_resync_sequencer.md R280). -/
theorem Inv.sequencerStep (h : Inv c s) (legal : c.Legal) (run : sequencerStep (execAt c) s = .next t) : Inv c t := by
  have selected {i : Instr} (e : s.seqState.step = some i) : execAt c i s = .next t :=
    (sequencerStep_runs e).symm.trans run
  cases stage : s.seqState with
  | idle =>
    cases (sequencerStep_idle stage).symm.trans run
    exact h
  | scanning => exact h.execAt_seqScanning legal stage (selected (congrArg SeqState.step stage))
  | inner => exact h.execAt_seqInner legal stage (selected (congrArg SeqState.step stage))
  | decAsm => exact h.execAt_seqDecAsm legal stage (selected (congrArg SeqState.step stage))
  | outer => exact h.execAt_seqOuter legal stage (selected (congrArg SeqState.step stage))
  | integrity => exact h.execAt_seqIntegrity stage (selected (congrArg SeqState.step stage))
  | decrypt => exact h.execAt_seqDecrypt stage (selected (congrArg SeqState.step stage))
  | cfgError => exact execAt_seqCfgError_cases (selected (congrArg SeqState.step stage)) ▸ h

/-! ### The steps of the machine -/

theorem Inv.coreStep (h : Inv c s) (legal : c.Legal) (run : coreStep (execAt c) s = .next t) : Inv c t := by
  by_cases held : acceptsCommands s.seqState = true → s.port = []
  · exact h.sequencerStep legal ((coreStep_sequencer held).symm.trans run)
  · obtain ⟨accepts, waiting⟩ := Classical.not_imp.1 held
    obtain ⟨w, rest, port⟩ := List.exists_cons_of_ne_nil waiting
    exact (h.withPort rest).acceptWord accepts ((coreStep_accept accepts port).symm.trans run)

/-- CONSUMER removes records and responses, and reset starts from a sound state (20_memory.md R85). -/
theorem Inv.stepAt (h : Inv c s) (legal : c.Legal) (run : stepAt c s = .next t) : Inv c t := by
  have sound : Inv c (afterTurn s) := h.withTurns _
  cases turn : coreTurn s with
  | true => exact sound.coreStep legal ((turnStep_core turn).symm.trans run)
  | false =>
    rcases turnStep_outside turn with removed | removed | wasReset
    · cases removed.symm.trans run
      exact sound.withResults _ fun r waiting => h.records r (List.mem_of_mem_drop waiting)
    · cases removed.symm.trans run
      exact sound.withResponses _
    · cases wasReset.symm.trans run
      exact ((inv_resetAt c).withPort (afterTurn s).port).withTurns (afterTurn s).turns

/-- Settles O37: at every legal configuration each agent's step keeps the invariant, and the machine's is legal. -/
theorem stepKeepsInvariant : Obligations.StepKeepsInvariant :=
  fun s _ sound run => sound.stepAt Config.machine_legal ((step_eq_stepAt s).symm.trans run)

end Sys2Proof.Machine
end

section
/-! PROOFS. BUF is append-only but for the stream resets (20_memory.md R73, 40_host_commands.md R149). -/

namespace Sys2Proof.Machine

open Sys2Proof.Claims

/-- The stream after a stream reset (40_host_commands.md R149). -/
def StreamEmpty (t : State) : Prop :=
  t.buf = [] ∧ t.buflen = 0 ∧ t.offset = 0 ∧ t.prevBit = false ∧ t.pass = { eval := false, candSeen := false }

/-- What R73 and R149 let instruction `i` do to the stream in taking `s` to `t`: discard it whole, or keep its bits and
add none or those of a push. -/
def StreamRule (c : Config) (i : Instr) (s t : State) : Prop :=
  (discardsStream c i s t → StreamEmpty t) ∧
  (¬discardsStream c i s t → ∃ more, t.buf = s.buf ++ more ∧ t.buflen = s.buflen + BitVec.ofNat 32 more.length ∧
    (more = [] ∨ more = (diffDecodeAll c s.mode s.prevBit (rawBitsOf i)).1))

variable {c : Config} {i : Instr} {s t : State}

/-! ### The three ways to meet the rule -/

theorem StreamRule.discards (discarded : discardsStream c i s t) (empty : StreamEmpty t) : StreamRule c i s t :=
  ⟨fun _ => empty, fun kept => absurd discarded kept⟩

theorem StreamRule.keeps (kept : ¬discardsStream c i s t) (buf : t.buf = s.buf) (buflen : t.buflen = s.buflen) :
    StreamRule c i s t :=
  ⟨fun discarded => absurd discarded kept, fun _ => ⟨[], by simp [buf], by simp [buflen], .inl rfl⟩⟩

theorem StreamRule.appends (kept : ¬discardsStream c i s t) (pushed : t = pushRaw c (rawBitsOf i) s) :
    StreamRule c i s t := by
  refine ⟨fun discarded => absurd discarded kept, fun _ => ⟨_, ?_, ?_, .inr rfl⟩⟩
  · rw [pushed, pushRaw_eq]
  · rw [pushed, pushRaw_eq, diffDecodeAll_length]

/-! ### Stream resets -/

theorem streamEmpty_streamReset (s : State) : StreamEmpty (streamReset s) :=
  ⟨rfl, rfl, rfl, rfl, rfl⟩

theorem streamEmpty_datagramEnd (s : State) : StreamEmpty (datagramEnd s) :=
  streamEmpty_streamReset s

/-! ### The end of an attempt -/

/-- A step of an attempt discards the stream exactly where it ends a datagram attempt. -/
theorem discardsStream_iff_of_attemptStep (attempt : attemptStep i) :
    discardsStream c i s t ↔ s.mode = .datagram ∧ t.seqState = .idle := by
  rcases attempt with rfl | rfl | rfl | rfl | rfl <;> simp [discardsStream, attemptStep]

/-- An attempt ends with an empty stream in datagram mode and with the same bits in streaming mode. -/
theorem StreamRule.finish (attempt : attemptStep i) (n : Nat) {u : State} (mode : u.mode = s.mode)
    (buf : u.buf = s.buf) (buflen : u.buflen = s.buflen) : StreamRule c i s (finish n u) := by
  cases h : s.mode with
  | streaming =>
    rw [finish_streaming (mode.trans h)]
    exact .keeps (by simp [discardsStream_iff_of_attemptStep attempt, h]) buf buflen
  | datagram =>
    rw [finish_datagram (mode.trans h)]
    exact .discards ((discardsStream_iff_of_attemptStep attempt).2 ⟨h, rfl⟩) (streamEmpty_datagramEnd u)

/-- A step that goes on with its attempt keeps the stream. -/
theorem StreamRule.nextStage (attempt : attemptStep i) (goesOn : t.seqState ≠ .idle) (buf : t.buf = s.buf)
    (buflen : t.buflen = s.buflen) : StreamRule c i s t :=
  .keeps (fun discarded => goesOn ((discardsStream_iff_of_attemptStep attempt).1 discarded).2) buf buflen

theorem Update.streamRule_of_attemptStep (u : Update s i t) (attempt : attemptStep i) : StreamRule c i s t := by
  cases u with
  | inner | decAsm | outer | integrity => exact .nextStage attempt nofun rfl rfl
  | innerFails | decAsmFails | outerFails | integrityFails | decrypt | decryptClamps =>
    exact .finish attempt _ rfl rfl rfl
  | refuse command => rcases attempt with rfl | rfl | rfl | rfl | rfl <;> cases command
  | _ => simp [attemptStep] at attempt

/-! ### Every instruction -/

theorem streamRule_of_execAt (h : execAt c i s = .next t) : StreamRule c i s t := by
  cases i with
  | pushBits nm1 data =>
    have kept : ¬discardsStream c (.pushBits nm1 data) s t := by simp [discardsStream, attemptStep]
    rcases execAt_pushBits_cases h with ⟨-, rfl⟩ | ⟨-, -, pushed⟩ | ⟨-, -, rfl⟩
    · exact .keeps kept rfl rfl
    · exact .appends kept pushed
    · exact .keeps kept rfl rfl
  | dgram =>
    rcases execAt_dgram_cases h with ⟨refused, rfl⟩ | ⟨-, -, whole, rfl⟩ | ⟨ready, mode, wrong, rfl⟩
    · exact .keeps (by rcases refused with e | e <;> simp [discardsStream, attemptStep, e]) rfl rfl
    · exact .keeps (by simp [discardsStream, attemptStep, whole]) rfl rfl
    · exact .discards (.inr (.inl ⟨rfl, ready, mode, wrong⟩)) (streamEmpty_streamReset _)
  | resetStream =>
    rcases execAt_resetStream_cases h with ⟨refused, rfl⟩ | ⟨ready, rfl⟩
    · exact .keeps (by simp [discardsStream, attemptStep, refused]) rfl rfl
    · exact .discards (.inl ⟨.inl rfl, ready⟩) (streamEmpty_streamReset _)
  | setMode m =>
    rcases execAt_setMode_cases h with ⟨refused, rfl⟩ | ⟨ready, rfl⟩
    · exact .keeps (by simp [discardsStream, attemptStep, refused]) rfl rfl
    · exact .discards (.inl ⟨.inr ⟨m, rfl⟩, ready⟩) (streamEmpty_streamReset _)
  | seqInner | seqDecAsm | seqOuter | seqIntegrity | seqDecrypt =>
    exact (update_of_execAt h).streamRule_of_attemptStep (by simp [attemptStep])
  | clear cnt flg =>
    have kept : ¬discardsStream c (.clear cnt flg) s t := by simp [discardsStream, attemptStep]
    rcases execAt_clear_cases h with ⟨-, rfl⟩ | ⟨-, rfl⟩
    · exact .keeps kept rfl rfl
    · exact .keeps kept (by rw [clearEffect_eq]) (by rw [clearEffect_eq])
  | nop | scan | readReg | reservedOp | seqScanning | seqCfgError =>
    cases update_of_execAt h <;> exact .keeps (by simp [discardsStream, attemptStep]) rfl rfl

/-- Settles O39: a stream reset discards, a push appends, and every other update leaves BUF and BUFLEN. -/
theorem bufIsAppendOnly : Obligations.BufIsAppendOnly :=
  fun i s _ h => streamRule_of_execAt (exec_eq_execAt i s ▸ h)

end Sys2Proof.Machine
end

section
/-! PROOFS. Fields of a word put together from placed values, and a word as its fields (30_encoding.md R100, R101,
R106). -/

namespace Sys2Proof

/-! ### The fields of an encoded word -/

@[simp] theorem field_or (v w : Word) (lo n : Nat) : field (v ||| w) lo n = field v lo n ||| field w lo n :=
  BitVec.extractLsb'_or

@[simp] theorem field_placed_same {n : Nat} (v : BitVec n) {lo : Nat} (room : lo + n ≤ 32) :
    field (placed v lo) lo n = v := by
  refine field_eq_of_bits fun i hi => ?_
  have inside : lo + i < 32 := by omega
  rw [placed_getLsbD]
  simp [inside]

@[simp] theorem field_placed_above {n : Nat} (v : BitVec n) {lo lo' m : Nat} (above : lo + n ≤ lo') :
    field (placed v lo) lo' m = 0 := by
  refine field_eq_of_bits fun i hi => ?_
  have past : v.getLsbD (lo' + i - lo) = false := BitVec.getLsbD_of_ge _ _ (by omega)
  simp [placed_getLsbD, past]

@[simp] theorem field_placed_below {n : Nat} (v : BitVec n) {lo lo' m : Nat} (below : lo' + m ≤ lo) :
    field (placed v lo) lo' m = 0 := by
  refine field_eq_of_bits fun i hi => ?_
  have under : ¬lo ≤ lo' + i := by omega
  simp [placed_getLsbD, under]

theorem field_one (w : Word) (lo : Nat) : field w lo 1 = BitVec.ofBool (w.getLsbD lo) := by
  refine field_eq_of_bits fun i hi => ?_
  obtain rfl : i = 0 := by omega
  simp

theorem field_one_eq_ofBool_iff {w : Word} {lo : Nat} {b : Bool} :
    field w lo 1 = BitVec.ofBool b ↔ w.getLsbD lo = b := by
  rw [field_one]
  cases w.getLsbD lo <;> cases b <;> decide

/-! ### A word is its fields -/

/-- Two neighbouring fields are one field. -/
theorem placed_field_or (w : Word) {lo n mid m both : Nat} (next : lo + n = mid) (size : n + m = both) :
    placed (field w mid m) mid ||| placed (field w lo n) lo = placed (field w lo both) lo := by
  refine BitVec.eq_of_getLsbD_eq fun i hi => ?_
  simp only [BitVec.getLsbD_or, placed_getLsbD, field_getLsbD]
  grind

theorem placed_field_word (w : Word) : placed (field w 0 32) 0 = w := by
  refine BitVec.eq_of_getLsbD_eq fun i hi => ?_
  rw [placed_getLsbD, field_getLsbD]
  simp [hi]

theorem placed_zero {n : Nat} (lo : Nat) : placed (0 : BitVec n) lo = 0 := by
  simp [placed]

section
variable {w : Word} {k : BitVec 4} {n r : Nat}

/-- The opcode and the 28 bits under it are the whole word. -/
theorem placed_opcode_or {v : BitVec 28} (op : field w 28 4 = k) (rest : field w 0 28 = v) :
    placed k 28 ||| placed v 0 = w := by
  rw [← op, ← rest, placed_field_or w (Nat.zero_add 28) (Nat.add_comm 28 4), placed_field_word]

theorem placed_opcode (op : field w 28 4 = k) (zero : field w 0 28 = 0) : placed k 28 = w := by
  have whole := placed_opcode_or op zero
  rwa [placed_zero, show placed k 28 ||| 0 = placed k 28 from BitVec.or_zero] at whole

/-- An operand below the reserved bits, which are zero. -/
theorem placed_opcode_or_operand {v : BitVec n} (bits : n + r = 28) (op : field w 28 4 = k) (zero : field w n r = 0)
    (operand : field w 0 n = v) : placed k 28 ||| placed v 0 = w := by
  have under : placed v 0 = placed (field w 0 28) 0 := by
    rw [← placed_field_or w (Nat.zero_add n) bits, zero, operand, placed_zero]
    exact BitVec.zero_or.symm
  rw [under, placed_opcode_or op rfl]

/-- Two operands below the reserved bits, which are zero. -/
theorem placed_opcode_or_operands {mid m : Nat} {u : BitVec m} {v : BitVec mid} (operands : mid + m = n)
    (bits : n + r = 28) (op : field w 28 4 = k) (zero : field w n r = 0) (high : field w mid m = u)
    (low : field w 0 mid = v) : placed k 28 ||| placed u mid ||| placed v 0 = w := by
  rw [← high, ← low, BitVec.or_assoc, placed_field_or w (Nat.zero_add mid) operands,
    placed_opcode_or_operand bits op zero rfl]

end

end Sys2Proof
end

section
/-! PROOFS. The command words as a table of fields: what decodes, what it encodes to, and the rows of
spec/opcode_table.json (30_encoding.md R100 to R105). -/

namespace Sys2Proof

variable {w : Word} {i j : Instr} {code : Code}

theorem Mode.bit_ofBit (b : Bool) : (Mode.ofBit b).bit = b := by
  cases b <;> rfl

theorem Mode.eq_ofBit {b : Bool} {m : Mode} (h : b = m.bit) : m = Mode.ofBit b := by
  cases m <;> exact h ▸ rfl

/-- The word `w` holds the fields of the command `i` (30_encoding.md R101, R104). -/
inductive CommandFields (w : Word) : Instr → Prop where
  | nop : field w 28 4 = 0 → field w 0 28 = 0 → CommandFields w .nop
  | pushBits {nm1 : BitVec 4} {data : BitVec 16} : field w 28 4 = 1 → field w 20 8 = 0 → field w 16 4 = nm1 →
      field w 0 16 = data → CommandFields w (.pushBits nm1 data)
  | scan : field w 28 4 = 2 → field w 0 28 = 0 → CommandFields w .scan
  | dgram : field w 28 4 = 3 → field w 0 28 = 0 → CommandFields w .dgram
  | resetStream : field w 28 4 = 4 → field w 0 28 = 0 → CommandFields w .resetStream
  | setMode {m : Mode} : field w 28 4 = 5 → field w 1 27 = 0 → field w 0 1 = BitVec.ofBool m.bit →
      CommandFields w (.setMode m)
  | readReg {addr : BitVec 8} : field w 28 4 = 6 → field w 8 20 = 0 → field w 0 8 = addr →
      CommandFields w (.readReg addr)
  | clear {cnt flg : Bool} : field w 28 4 = 7 → field w 2 26 = 0 → field w 1 1 = BitVec.ofBool cnt →
      field w 0 1 = BitVec.ofBool flg → CommandFields w (.clear cnt flg)
  | reservedOp {op : BitVec 4} {ignored : BitVec 28} : op.getLsbD 3 = true → field w 28 4 = op →
      field w 0 28 = ignored → CommandFields w (.reservedOp op ignored)

theorem reserved_opcode_iff (op : BitVec 4) : op.getLsbD 3 = true ↔ 8 ≤ op.toNat := by
  revert op
  decide

theorem CommandFields.of_decode (h : decode (.command w) = .ok i) : CommandFields w i := by
  obtain ⟨op, zero, rfl⟩ | ⟨op, zero, rfl⟩ | ⟨op, zero, rfl⟩ | ⟨op, zero, rfl⟩ | ⟨op, zero, rfl⟩ | ⟨op, zero, rfl⟩ |
    ⟨op, zero, rfl⟩ | ⟨op, zero, rfl⟩ | ⟨large, rfl⟩ := decodeCommand_ok h
  · exact .nop op zero
  · exact .pushBits op zero rfl rfl
  · exact .scan op zero
  · exact .dgram op zero
  · exact .resetStream op zero
  · exact .setMode op zero (by rw [field_one, Mode.bit_ofBit])
  · exact .readReg op zero rfl
  · exact .clear op zero (field_one w 1) (field_one w 0)
  · exact .reservedOp ((reserved_opcode_iff _).mpr large) rfl rfl

theorem CommandFields.decodes (h : CommandFields w i) : decode (.command w) = .ok i := by
  cases h with
  | nop op zero | scan op zero | dgram op zero | resetStream op zero =>
    simp [decode, decodeCommand, op, whenZero_of_eq zero]
  | pushBits op zero nm1 data => simp [decode, decodeCommand, op, whenZero_of_eq zero, nm1, data]
  | setMode op zero mode =>
    obtain rfl := Mode.eq_ofBit (field_one_eq_ofBool_iff.mp mode)
    simp [decode, decodeCommand, op, whenZero_of_eq zero]
  | readReg op zero addr => simp [decode, decodeCommand, op, whenZero_of_eq zero, addr]
  | clear op zero cnt flg =>
    obtain rfl := field_one_eq_ofBool_iff.mp cnt
    obtain rfl := field_one_eq_ofBool_iff.mp flg
    simp [decode, decodeCommand, op, whenZero_of_eq zero]
  | reservedOp reserved op ignored =>
    have large := (reserved_opcode_iff _).mp reserved
    simp only [decode, decodeCommand, op, ignored]
    split
    case h_9 => rfl
    all_goals omega

theorem decode_command_eq_ok_iff : decode (.command w) = .ok i ↔ CommandFields w i :=
  ⟨.of_decode, CommandFields.decodes⟩

/-! ### Encoding and decoding -/

/-- Settles O1: the fields of an encoded word are the operands it was put together from. -/
theorem decodeEncodeRoundTrip : Obligations.DecodeEncodeRoundTrip := by
  intro i wf
  cases i with
  | nop => refine CommandFields.decodes (.nop ?_ ?_) <;> simp
  | pushBits nm1 data => refine CommandFields.decodes (.pushBits ?_ ?_ ?_ ?_) <;> simp
  | scan => refine CommandFields.decodes (.scan ?_ ?_) <;> simp
  | dgram => refine CommandFields.decodes (.dgram ?_ ?_) <;> simp
  | resetStream => refine CommandFields.decodes (.resetStream ?_ ?_) <;> simp
  | setMode m => refine CommandFields.decodes (.setMode ?_ ?_ ?_) <;> simp
  | readReg addr => refine CommandFields.decodes (.readReg ?_ ?_ ?_) <;> simp
  | clear cnt flg => refine CommandFields.decodes (.clear ?_ ?_ ?_ ?_) <;> simp
  | reservedOp op ignored => refine CommandFields.decodes (.reservedOp wf ?_ ?_) <;> simp
  | seqScanning => exact decode_seq_code .scanning
  | seqInner => exact decode_seq_code .inner
  | seqDecAsm => exact decode_seq_code .decAsm
  | seqOuter => exact decode_seq_code .outer
  | seqIntegrity => exact decode_seq_code .integrity
  | seqDecrypt => exact decode_seq_code .decrypt
  | seqCfgError => exact decode_seq_code .cfgError

theorem CommandFields.wellFormed (h : CommandFields w i) : i.wellFormed = true := by
  cases h with
  | reservedOp reserved => exact reserved
  | _ => rfl

theorem CommandFields.encodes (h : CommandFields w i) : encode i = .command w := by
  cases h with
  | nop op zero | scan op zero | dgram op zero | resetStream op zero =>
    exact congrArg Code.command (placed_opcode op zero)
  | pushBits op zero nm1 data => exact congrArg Code.command (placed_opcode_or_operands rfl rfl op zero nm1 data)
  | setMode op zero mode => exact congrArg Code.command (placed_opcode_or_operand rfl op zero mode)
  | readReg op zero addr => exact congrArg Code.command (placed_opcode_or_operand rfl op zero addr)
  | clear op zero cnt flg => exact congrArg Code.command (placed_opcode_or_operands rfl rfl op zero cnt flg)
  | reservedOp reserved op ignored => exact congrArg Code.command (placed_opcode_or op ignored)

theorem decode_seq_encodes {k : BitVec 4} (h : decode (.seq k) = .ok i) : i.wellFormed = true ∧ encode i = .seq k := by
  obtain ⟨st, rfl, step⟩ := decode_seq_ok h
  cases st <;> cases step <;> exact ⟨rfl, rfl⟩

/-- Settles O2: a word is the fields it decodes to. -/
theorem encodeDecodeRoundTrip : Obligations.EncodeDecodeRoundTrip := by
  intro code i h
  cases code with
  | command w =>
    have fields := CommandFields.of_decode h
    exact ⟨fields.wellFormed, fields.encodes⟩
  | seq k => exact decode_seq_encodes h

end Sys2Proof
end

section
/-! PROOFS. The rows of spec/opcode_table.json and the words that match none of them (30_encoding.md R104, R105). -/

namespace Sys2Proof

variable {w : Word} {i j : Instr} {code : Code}

/-! ### Patterns and masks -/

/-- A mask of the bits from `lo` up keeps the field above `lo`. -/
theorem and_mask_from (w : Word) {lo n : Nat} (top : lo + n = 32) :
    w &&& BitVec.allOnes 32 <<< lo = placed (field w lo n) lo := by
  refine BitVec.eq_of_getLsbD_eq fun i hi => ?_
  rw [placed_getLsbD, field_getLsbD, BitVec.getLsbD_and, BitVec.getLsbD_shiftLeft, BitVec.getLsbD_allOnes]
  by_cases above : lo ≤ i
  · have inside : i - lo < 32 ∧ i - lo < n ∧ ¬i < lo := by omega
    simp [hi, above, inside, Bool.and_comm]
  · simp [above, Nat.lt_of_not_le above]

/-- A row of opcode `k` with `r` reserved bits, from bit `lo` to bit 27: its mask covers both, and its pattern has zeros
under the opcode. -/
theorem command_matches_iff (k : BitVec 4) (lo r : Nat) {p m : Word} (pattern : p = placed k 28 := by decide)
    (mask : m = BitVec.allOnes 32 <<< lo := by decide) (bits : lo + r = 28 := by decide) :
    RowPattern.matchesCode (.command p m) (.command w) = true ↔ field w 28 4 = k ∧ field w lo r = 0 := by
  have kept : w &&& m = placed (field w 28 4) 28 ||| placed (field w lo r) lo := by
    rw [mask, and_mask_from w (n := r + 4) (by omega), placed_field_or w bits rfl]
  simp only [RowPattern.matchesCode, beq_iff_eq, kept, pattern]
  constructor
  · intro same
    have inside : lo + r ≤ 32 := by omega
    have op := congrArg (field · 28 4) same
    have reserved := congrArg (field · lo r) same
    exact ⟨by simpa [bits.le] using op, by simpa [bits.le, inside] using reserved⟩
  · rintro ⟨op, reserved⟩
    rw [op, reserved, placed_zero]
    exact BitVec.or_zero

/-- The row of the reserved opcodes asks for bit 31 alone. -/
theorem reserved_row_matches_iff : RowPattern.matchesCode (.command 0x80000000 0x80000000) (.command w) = true ↔
    (field w 28 4).getLsbD 3 = true := by
  have kept : w &&& 0x80000000 = placed (field w 31 1) 31 := by
    rw [← and_mask_from w rfl]
    rfl
  have top : (field w 28 4).getLsbD 3 = w.getLsbD 31 := field_getLsbD w 28 4 3
  simp only [RowPattern.matchesCode, beq_iff_eq, kept, top, field_one]
  cases w.getLsbD 31 <;> decide

theorem seq_matches_iff {p k : BitVec 4} : RowPattern.matchesCode (.seq p 0xF) (.seq k) = true ↔ p = k := by
  revert p k
  decide

/-! ### The row of what a code decodes to -/

theorem CommandFields.row_matches (h : CommandFields w i) : i.row.matchesCode (.command w) = true := by
  cases h with
  | nop op zero => exact (command_matches_iff 0 0 28).mpr ⟨op, zero⟩
  | scan op zero => exact (command_matches_iff 2 0 28).mpr ⟨op, zero⟩
  | dgram op zero => exact (command_matches_iff 3 0 28).mpr ⟨op, zero⟩
  | resetStream op zero => exact (command_matches_iff 4 0 28).mpr ⟨op, zero⟩
  | pushBits op zero => exact (command_matches_iff 1 20 8).mpr ⟨op, zero⟩
  | setMode op zero => exact (command_matches_iff 5 1 27).mpr ⟨op, zero⟩
  | readReg op zero => exact (command_matches_iff 6 8 20).mpr ⟨op, zero⟩
  | clear op zero => exact (command_matches_iff 7 2 26).mpr ⟨op, zero⟩
  | reservedOp reserved op => exact reserved_row_matches_iff.mpr (op ▸ reserved)

theorem row_matches_of_decode (h : decode code = .ok i) : i.row.matchesCode code = true := by
  cases code with
  | command w => exact (CommandFields.of_decode h).row_matches
  | seq k =>
    obtain ⟨st, rfl, step⟩ := decode_seq_ok h
    cases st <;> cases step <;> rfl

/-! ### A code that matches a row -/

theorem exists_fields_of_row_matches (h : j.row.matchesCode (.command w) = true) :
    ∃ i, CommandFields w i ∧ i.row = j.row := by
  cases j with
  | nop =>
    obtain ⟨op, zero⟩ := (command_matches_iff 0 0 28).mp h
    exact ⟨.nop, .nop op zero, rfl⟩
  | pushBits =>
    obtain ⟨op, zero⟩ := (command_matches_iff 1 20 8).mp h
    exact ⟨_, .pushBits op zero rfl rfl, rfl⟩
  | scan =>
    obtain ⟨op, zero⟩ := (command_matches_iff 2 0 28).mp h
    exact ⟨.scan, .scan op zero, rfl⟩
  | dgram =>
    obtain ⟨op, zero⟩ := (command_matches_iff 3 0 28).mp h
    exact ⟨.dgram, .dgram op zero, rfl⟩
  | resetStream =>
    obtain ⟨op, zero⟩ := (command_matches_iff 4 0 28).mp h
    exact ⟨.resetStream, .resetStream op zero, rfl⟩
  | setMode =>
    obtain ⟨op, zero⟩ := (command_matches_iff 5 1 27).mp h
    exact ⟨.setMode (.ofBit (w.getLsbD 0)), .setMode op zero (by rw [field_one, Mode.bit_ofBit]), rfl⟩
  | readReg =>
    obtain ⟨op, zero⟩ := (command_matches_iff 6 8 20).mp h
    exact ⟨_, .readReg op zero rfl, rfl⟩
  | clear =>
    obtain ⟨op, zero⟩ := (command_matches_iff 7 2 26).mp h
    exact ⟨_, .clear op zero (field_one w 1) (field_one w 0), rfl⟩
  | reservedOp => exact ⟨_, .reservedOp (reserved_row_matches_iff.mp h) rfl rfl, rfl⟩
  | seqScanning | seqInner | seqDecAsm | seqOuter | seqIntegrity | seqDecrypt | seqCfgError =>
    exact absurd h Bool.false_ne_true

theorem decode_seq_of_row_matches {k : BitVec 4} (h : j.row.matchesCode (.seq k) = true) : decode (.seq k) = .ok j := by
  cases j with
  | seqScanning | seqInner | seqDecAsm | seqOuter | seqIntegrity | seqDecrypt | seqCfgError =>
    obtain rfl := seq_matches_iff.mp h
    rfl
  | _ => exact absurd h Bool.false_ne_true

theorem decode_of_row_matches (h : j.row.matchesCode code = true) : ∃ i, decode code = .ok i ∧ i.row = j.row := by
  cases code with
  | command w =>
    obtain ⟨i, fields, row⟩ := exists_fields_of_row_matches h
    exact ⟨i, fields.decodes, row⟩
  | seq k => exact ⟨j, decode_seq_of_row_matches h, rfl⟩

/-- Settles O3: both directions, row by row. -/
theorem decodeFollowsOpcodeTable : Obligations.DecodeFollowsOpcodeTable := by
  refine fun code j => ⟨decode_of_row_matches, ?_⟩
  rintro ⟨i, decoded, row⟩
  exact row ▸ row_matches_of_decode decoded

/-! ### Words that match no row -/

theorem defined_opcode_of_decode_error {e : DecodeError} (h : decode (.command w) = .error e) :
    e = .reservedField (field w 28 4) ∧ (field w 28 4).toNat < 8 := by
  obtain ⟨named, reserved⟩ := decodeCommand_error h
  refine ⟨named, ?_⟩
  obtain ⟨op, -⟩ | ⟨op, -⟩ | ⟨op, -⟩ | ⟨op, -⟩ | ⟨op, -⟩ | ⟨op, -⟩ | ⟨op, -⟩ | ⟨op, -⟩ := reserved <;>
    rw [op] <;> decide

/-- Settles O4: a word that matches a row decodes, and one that does not decode has a non-zero reserved field. -/
theorem reservedFieldWordsAreNamed : Obligations.ReservedFieldWordsAreNamed := by
  intro w op
  constructor
  · intro rejected
    obtain ⟨named, small⟩ := defined_opcode_of_decode_error rejected
    obtain rfl : op = field w 28 4 := DecodeError.reservedField.inj named
    refine ⟨rfl, small, fun j => Bool.eq_false_iff.mpr fun hit => ?_⟩
    obtain ⟨i, decoded, -⟩ := decode_of_row_matches hit
    cases rejected.symm.trans decoded
  · rintro ⟨rfl, -, misses⟩
    cases decoded : decode (.command w) with
    | ok i => exact absurd (row_matches_of_decode decoded) (Bool.eq_false_iff.mp (misses i))
    | error e => rw [(defined_opcode_of_decode_error decoded).1, field]

/-- Settles O5: the sample words, one by one. -/
theorem sampleWordsDecode : Obligations.SampleWordsDecode := by
  refine ⟨?_, ?_, ?_, ?_, ?_, ?_, ?_, ?_, ?_, ?_, ?_, ?_, ?_⟩ <;> decide

end Sys2Proof
end

section
/-! PROOFS. A reserved opcode (30_encoding.md R103). -/

namespace Sys2Proof.Machine

open Sys2Proof.Claims

theorem refuseCommand_eq_cmdErrSet (s : State) : refuseCommand s = cmdErrSet s := rfl

/-- Settles O25: the row refuses the command, whatever the operand bits. -/
theorem reservedOpcodeSetsCmdErr : Obligations.ReservedOpcodeSetsCmdErr :=
  fun _ _ s => congrArg Host.Outcome.next (refuseCommand_eq_cmdErrSet s)

end Sys2Proof.Machine
end

section
/-! PROOFS. The serialized record (30_encoding.md R115). -/

namespace Sys2Proof.Machine

open Sys2Proof.Claims

theorem codeNumber_eq (code : ResultCode) : codeNumber code = resultNumber code := by
  cases code <;> rfl

theorem recordWords_length (r : Record) : (recordWords r).length = 6 + (r.payload.length + 3) / 4 := by
  rw [recordWords, List.length_append, List.length_map, List.length_range]
  rfl

/-- The words after the first six are the payload's. -/
theorem recordWords_payload (r : Record) {j : Nat} (h : j < (r.payload.length + 3) / 4) :
    (recordWords r).getD (6 + j) 0 = payloadWord r.payload j := by
  simp [recordWords, Nat.add_comm 6, h]

/-- Byte `m` of a payload word, byte 0 in the least significant place (30_encoding.md R115). -/
theorem field_payloadWord (payload : Bytes) (j : Nat) {m : Nat} (h : m < 4) :
    field (payloadWord payload j) (8 * m) 8 = payload.getD (4 * j + m) 0 := by
  match m, h with
  | 0, _ => simp [payloadWord]
  | 1, _ => simp [payloadWord]
  | 2, _ => simp [payloadWord]
  | 3, _ => simp [payloadWord]

theorem recordWords_payload_byte (r : Record) {i : Nat} (h : i < 4 * ((r.payload.length + 3) / 4)) :
    field ((recordWords r).getD (6 + i / 4) 0) (8 * (i % 4)) 8 = r.payload.getD i 0 := by
  rw [recordWords_payload r (by omega), field_payloadWord _ _ (Nat.mod_lt i (by decide)), Nat.div_add_mod]

/-! ### Word 0 -/

section
variable (r : Record)

theorem recordWords_code : field ((recordWords r).getD 0 0) 28 4 = resultNumber r.code := by
  simp [recordWords]

theorem recordWords_sub : field ((recordWords r).getD 0 0) 24 4 = r.sub := by
  simp [recordWords]

theorem recordWords_mode : field ((recordWords r).getD 0 0) 23 1 = BitVec.ofBool r.mode.bit := by
  simp [recordWords]

theorem recordWords_reserved : field ((recordWords r).getD 0 0) 16 7 = 0 := by
  simp [recordWords]

theorem recordWords_payload_length : field ((recordWords r).getD 0 0) 0 16 = BitVec.ofNat 16 r.payload.length := by
  simp [recordWords]

end

/-- Settles O58: word 0 field by field, and the payload byte by byte. -/
theorem serializedRecordLayout : Obligations.SerializedRecordLayout := by
  intro r fits
  refine ⟨recordWords_length r, ?_, recordWords_sub r, ?_, recordWords_reserved r, ?_, rfl, rfl, rfl, rfl, rfl,
    fun i => recordWords_payload_byte r⟩
  · exact (recordWords_code r).trans (codeNumber_eq r.code).symm
  · rw [field_one_eq_ofBool_iff.mp (recordWords_mode r), Mode.bit_eq_true_iff]
  · refine (congrArg BitVec.toNat (recordWords_payload_length r)).trans ?_
    rw [BitVec.toNat_ofNat, Nat.mod_eq_of_lt fits]

end Sys2Proof.Machine
end

section
/-! PROOFS. The assembled pushes (30_encoding.md R102, R106, R107). -/

namespace Sys2Proof.Machine

/-! ### The bits of ToInt -/

/-- Bit `k` of a sequence is binary digit `s.length - 1 - k` of ToInt (00_scope.md R13). -/
theorem testBit_toInt {s : Bits} {k : Nat} (h : k < s.length) : (toInt s).testBit (s.length - 1 - k) = s[k] := by
  induction s generalizing k with
  | nil => cases h
  | cons b rest ih =>
    rw [toInt_cons, Nat.mul_comm, Nat.testBit_two_pow_mul_add _ (toInt_lt rest)]
    cases k with
    | zero => cases b <;> simp [bitNat]
    | succ k =>
      have inside : k < rest.length := Nat.lt_of_succ_lt_succ h
      have digit : (b :: rest).length - 1 - (k + 1) = rest.length - 1 - k := by simp only [List.length_cons]; omega
      rw [digit, if_pos (by omega), ih inside, List.getElem_cons_succ]

/-- Every number of `n` bits is ToInt of a sequence of length `n`. -/
theorem exists_toInt_eq {n v : Nat} (h : v < 2 ^ n) : ∃ s : Bits, s.length = n ∧ toInt s = v := by
  induction n generalizing v with
  | zero => exact ⟨[], rfl, by rw [toInt_nil]; omega⟩
  | succ n ih =>
    rw [pow_succ] at h
    by_cases small : v < 2 ^ n
    · obtain ⟨s, len, value⟩ := ih small
      exact ⟨false :: s, by simp [len], by simp [toInt_cons, bitNat, value]⟩
    · obtain ⟨s, len, value⟩ := ih (v := v - 2 ^ n) (by omega)
      refine ⟨true :: s, by simp [len], ?_⟩
      simp only [toInt_cons, bitNat, len, value, if_true]
      omega

/-! ### One push -/

theorem pushCount_ofNat {n : Nat} (pos : 1 ≤ n) (le : n ≤ 16) : pushCount (BitVec.ofNat 4 (n - 1)) = n := by
  rw [pushCount, BitVec.toNat_ofNat, Nat.mod_eq_of_lt (by omega)]
  omega

/-- A push delivers its bits (30_encoding.md R102). -/
theorem rawBitsOf_pushOfBits {s : Bits} (pos : 1 ≤ s.length) (le : s.length ≤ 16) : rawBitsOf (pushOfBits s) = s := by
  refine List.ext_getElem ?_ fun k h1 h2 => ?_
  · simp [pushOfBits, rawBitsOf, pushedBits, pushCount_ofNat pos le]
  · have digit : 15 - k - (16 - s.length) = s.length - 1 - k := by omega
    have inside : 15 - k < 16 ∧ 16 - s.length ≤ 15 - k := by omega
    simp only [pushOfBits, rawBitsOf, pushedBits, List.getElem_map, List.getElem_range, BitVec.getLsbD_ofNat,
      Nat.testBit_mul_two_pow, digit, testBit_toInt h2, inside, decide_true, Bool.true_and]

theorem pushByte_eq (b : Byte) : pushByte b = pushOfBits (byteBits b) := by
  refine congrArg (Instr.pushBits 7#4) (BitVec.eq_of_toNat_eq ?_)
  have bound : b.toNat * 2 ^ 8 < 2 ^ 16 := Nat.mul_lt_mul_of_pos_right b.isLt (by decide)
  rw [toInt_byteBits, byteBits_length, BitVec.toNat_ofNat, Nat.mod_eq_of_lt bound, BitVec.toNat_append,
    Nat.shiftLeft_eq]
  exact Nat.or_zero _

theorem rawBitsOf_pushByte (b : Byte) : rawBitsOf (pushByte b) = unpack [b] := by
  rw [pushByte_eq, rawBitsOf_pushOfBits (by simp) (by simp)]
  exact (List.append_nil _).symm

theorem asmPushBits_toInt {s : Bits} (pos : 1 ≤ s.length) (le : s.length ≤ 16) :
    asmPushBits s.length (toInt s) = some (pushOfBits s) :=
  if_pos ⟨pos, le, toInt_lt s⟩

/-! ### A sequence of pushes -/

/-- The slices of a sequence at the multiples of 16, one after another. -/
theorem flatMap_slice (s : Bits) (m : Nat) :
    (List.range m).flatMap (fun j => slice s (16 * j) 16) = s.take (16 * m) := by
  induction m with
  | zero => rfl
  | succ m ih =>
    rw [List.range_succ, List.flatMap_append, ih, Nat.mul_succ, List.take_add, List.flatMap_singleton, slice]

/-- The whole pushes of PUSH_SEQ deliver the groups of 16 bits (30_encoding.md R107). -/
theorem flatMap_whole_pushes (s : Bits) :
    ((List.range (s.length / 16)).map fun j => pushOfBits (slice s (16 * j) 16)).flatMap rawBitsOf =
      s.take (16 * (s.length / 16)) := by
  rw [← flatMap_slice, List.flatMap_map]
  refine List.flatMap_congr fun j hj => rawBitsOf_pushOfBits ?_ ?_ <;>
  · have inside := List.mem_range.mp hj
    rw [slice_length]
    omega

theorem flatMap_pushSeq (s : Bits) : (pushSeq s).flatMap rawBitsOf = s := by
  rw [pushSeq, List.flatMap_append, flatMap_whole_pushes]
  split
  next whole =>
    exact (List.append_nil _).trans (List.take_of_length_le (by omega))
  next left =>
    have len : (s.drop (16 * (s.length / 16))).length = s.length % 16 := by rw [List.length_drop]; omega
    rw [List.flatMap_singleton, rawBitsOf_pushOfBits (by omega) (by omega), List.take_append_drop]

/-- Settles O59: every push is that of a sequence of 1 to 16 bits, and the sequences of a PUSH_SEQ make up the whole. -/
theorem assembledPushesDeliverTheirBits : Obligations.AssembledPushesDeliverTheirBits := by
  refine ⟨flatMap_pushSeq, rawBitsOf_pushByte, fun b => flatMap_pushSeq (unpack b), fun n v =>
    ⟨?_, fun broken => if_neg broken⟩⟩
  rintro ⟨pos, le, bound⟩
  obtain ⟨s, rfl, rfl⟩ := exists_toInt_eq bound
  exact ⟨_, asmPushBits_toInt pos le, by rw [rawBitsOf_pushOfBits pos le], by rw [rawBitsOf_pushOfBits pos le]⟩

end Sys2Proof.Machine
end

section
/-! PROOFS. Sixteen bytes and a block are the same number (30_encoding.md R121). -/

namespace Sys2Proof.Machine

/-- The number whose base-256 digits are the bytes, the first most significant. -/
def bytesValue (b : Bytes) : Nat :=
  b.foldl (fun acc x => 256 * acc + x.toNat) 0

theorem blockOfBytes_eq (b : Bytes) : blockOfBytes b = BitVec.ofNat 128 (bytesValue b) := rfl

theorem bytesValue_concat (b : Bytes) (x : Byte) : bytesValue (b ++ [x]) = 256 * bytesValue b + x.toNat :=
  List.foldl_concat ..

theorem bytesValue_lt (b : Bytes) : bytesValue b < 256 ^ b.length := by
  induction b using List.reverseRecOn with
  | nil => decide
  | append_singleton b x ih =>
    have bound := x.isLt
    rw [bytesValue_concat, List.length_append, List.length_singleton, pow_succ]
    omega

/-- Byte `i` is base-256 digit `b.length - 1 - i`. -/
theorem bytesValue_digit {b : Bytes} {i : Nat} (h : i < b.length) :
    bytesValue b / 256 ^ (b.length - 1 - i) % 256 = (b.getD i 0).toNat := by
  induction b using List.reverseRecOn with
  | nil => cases h
  | append_singleton b x ih =>
    have bound := x.isLt
    rw [List.length_append, List.length_singleton] at h ⊢
    rw [bytesValue_concat]
    obtain rfl | inside := Nat.eq_or_lt_of_le (Nat.le_of_lt_succ h)
    · simp [Nat.mod_eq_of_lt bound]
    · have digit : b.length + 1 - 1 - i = b.length - 1 - i + 1 := by omega
      have head : (256 * bytesValue b + x.toNat) / 256 = bytesValue b := by omega
      rw [digit, pow_succ', ← Nat.div_div_eq_div_mul, head, ih inside, List.getD_append _ _ _ _ inside]

theorem blockByte_blockOfBytes {b : Bytes} (len : b.length = 16) {i : Nat} (h : i < 16) :
    blockByte (blockOfBytes b) i = b.getD i 0 := by
  have bound : bytesValue b < 2 ^ 128 := by simpa [len] using bytesValue_lt b
  have digit := bytesValue_digit (len ▸ h)
  refine BitVec.eq_of_toNat_eq ?_
  rw [blockByte, blockOfBytes_eq, BitVec.extractLsb'_toNat, BitVec.toNat_ofNat, Nat.mod_eq_of_lt bound,
    Nat.shiftRight_eq_div_pow, pow_mul, ← digit, len]
  rfl

theorem bytesOfBlock_getD (key : Block) {i : Nat} (h : i < 16) : (bytesOfBlock key).getD i 0 = blockByte key i := by
  simp [bytesOfBlock, h]

theorem bytesOfBlock_blockOfBytes {b : Bytes} (len : b.length = 16) : bytesOfBlock (blockOfBytes b) = b := by
  refine List.ext_getElem (by rw [bytesOfBlock_length, len]) fun i h1 h2 => ?_
  have same := blockByte_blockOfBytes len (len ▸ h2)
  rwa [← bytesOfBlock_getD _ (len ▸ h2), List.getD_eq_getElem _ _ h1, List.getD_eq_getElem _ _ h2] at same

/-- Bit `k` of a block is a bit of byte `15 - k / 8`. -/
theorem getLsbD_block (b : Block) {k : Nat} (h : k < 128) :
    b.getLsbD k = (blockByte b (15 - k / 8)).getLsbD (k % 8) := by
  have place : 8 * (15 - (15 - k / 8)) + k % 8 = k := by omega
  rw [blockByte, BitVec.getLsbD_extractLsb', place, decide_eq_true (Nat.mod_lt k (by decide)), Bool.true_and]

theorem bytesOfBlock_injective {a b : Block} (h : bytesOfBlock a = bytesOfBlock b) : a = b := by
  refine BitVec.eq_of_getLsbD_eq fun k hk => ?_
  have inside : 15 - k / 8 < 16 := by omega
  rw [getLsbD_block a hk, getLsbD_block b hk, ← bytesOfBlock_getD a inside, ← bytesOfBlock_getD b inside, h]

theorem blockOfBytes_bytesOfBlock (b : Block) : blockOfBytes (bytesOfBlock b) = b :=
  bytesOfBlock_injective (bytesOfBlock_blockOfBytes (bytesOfBlock_length b))

end Sys2Proof.Machine
end

section
/-! PROOFS. The two key-text formats (30_encoding.md R120). -/

namespace Sys2Proof.Machine

/-! ### One byte -/

theorem hexDigit_lt {ch : Char} {d : Nat} (h : hexDigit ch = some d) : d < 16 := by
  simp only [hexDigit] at h
  split_ifs at h <;> cases h <;> omega

theorem hexByte_eq_some_iff {hi lo : Char} {b : Byte} : hexByte hi lo = some b ↔
    ∃ h l, hexDigit hi = some h ∧ hexDigit lo = some l ∧ b.toNat = 16 * h + l := by
  unfold hexByte
  split
  next h l hh hl =>
    have value : (BitVec.ofNat 8 (16 * h + l)).toNat = 16 * h + l := by
      have := hexDigit_lt hh
      have := hexDigit_lt hl
      rw [BitVec.toNat_ofNat, Nat.mod_eq_of_lt (by omega)]
    simp [hh, hl, ← BitVec.toNat_inj, value, eq_comm]
  next no =>
    simp only [reduceCtorEq, false_iff]
    rintro ⟨h, l, hh, hl, -⟩
    exact no h l hh hl

theorem hexItem_eq_some_iff {item : List Char} {b : Byte} : hexItem item = some b ↔
    ∃ z x hi lo, item = [z, x, hi, lo] ∧ z = '0' ∧ (x = 'x' ∨ x = 'X') ∧ hexByte hi lo = some b := by
  unfold hexItem
  split
  next z x hi lo => simp [and_assoc]
  next no =>
    simp only [reduceCtorEq, false_iff]
    rintro ⟨z, x, hi, lo, rfl, -⟩
    exact no z x hi lo rfl

/-! ### A list of bytes -/

theorem hexPairs_cons_eq_some_iff {hi lo : Char} {rest : List Char} {bs : Bytes} :
    hexPairs (hi :: lo :: rest) = some bs ↔
      ∃ b tail, bs = b :: tail ∧ hexByte hi lo = some b ∧ hexPairs rest = some tail := by
  rw [hexPairs]
  split
  next b tail hb htail => simp [hb, htail, eq_comm]
  next no =>
    simp only [reduceCtorEq, false_iff]
    rintro ⟨b, tail, -, hb, htail⟩
    exact no b tail hb htail

theorem hexItems_cons_eq_some_iff {item : List Char} {rest : List (List Char)} {bs : Bytes} :
    hexItems (item :: rest) = some bs ↔
      ∃ b tail, bs = b :: tail ∧ hexItem (trimBoth isItemSpace item) = some b ∧ hexItems rest = some tail := by
  rw [hexItems]
  split
  next b tail hb htail => simp [hb, htail, eq_comm]
  next no =>
    simp only [reduceCtorEq, false_iff]
    rintro ⟨b, tail, -, hb, htail⟩
    exact no b tail hb htail

theorem hexPairs_eq_some_iff {t : List Char} {bs : Bytes} : hexPairs t = some bs ↔ t.length = 2 * bs.length ∧
    ∀ i < bs.length, hexByte (t.getD (2 * i) ' ') (t.getD (2 * i + 1) ' ') = some (bs.getD i 0) := by
  induction bs generalizing t with
  | nil =>
    match t with
    | [] => simp [hexPairs]
    | [_] => simp [hexPairs]
    | _ :: _ :: _ => simp [hexPairs_cons_eq_some_iff]
  | cons b bs ih =>
    match t with
    | [] => simp [hexPairs]
    | [_] => simp [hexPairs]; omega
    | hi :: lo :: rest =>
      have length : rest.length + 1 + 1 = 2 * (bs.length + 1) ↔ rest.length = 2 * bs.length := by omega
      rw [hexPairs_cons_eq_some_iff, List.length_cons, List.length_cons, List.length_cons, length,
        Nat.forall_lt_succ_left]
      simp [ih, Nat.mul_add, and_left_comm]

theorem hexItems_eq_some_iff {items : List (List Char)} {bs : Bytes} :
    hexItems items = some bs ↔ items.length = bs.length ∧
      ∀ i < bs.length, hexItem (trimBoth isItemSpace (items.getD i [])) = some (bs.getD i 0) := by
  induction items generalizing bs with
  | nil => cases bs <;> simp [hexItems]
  | cons item items ih =>
    cases bs with
    | nil => simp [hexItems_cons_eq_some_iff]
    | cons b bs =>
      rw [hexItems_cons_eq_some_iff, List.length_cons, List.length_cons, Nat.forall_lt_succ_left]
      simp [ih, and_left_comm]

/-! ### The key -/

theorem keyOfBytes_eq_some_iff {o : Option Bytes} {key : Block} :
    keyOfBytes o = some key ↔ o = some (bytesOfBlock key) := by
  constructor
  · intro h
    unfold keyOfBytes at h
    split at h
    · cases h
    · next bs =>
      split at h
      next len =>
        cases h
        rw [bytesOfBlock_blockOfBytes len]
      next => cases h
  · rintro rfl
    rw [keyOfBytes, if_pos (bytesOfBlock_length key), blockOfBytes_bytesOfBlock]

section
variable {text : List Char} {key : Block}

theorem keyParse_digits_iff (form : ',' ∉ trimBoth isKeySpace text) :
    keyParse text = some key ↔ hexPairs (trimBoth isKeySpace text) = some (bytesOfBlock key) := by
  rw [← keyOfBytes_eq_some_iff, keyParse, if_neg form]

theorem keyParse_items_iff (form : ',' ∈ trimBoth isKeySpace text) :
    keyParse text = some key ↔
      hexItems (splitAtChar ',' (trimBoth isKeySpace text)) = some (bytesOfBlock key) := by
  rw [← keyOfBytes_eq_some_iff, keyParse, if_pos form]

end

/-- Settles O57: the bytes the text lists are those of the key, one by one. -/
theorem keyParseGrammar : Obligations.KeyParseGrammar := by
  intro text key t items
  refine ⟨fun form => ?_, fun form => ?_⟩
  · rw [keyParse_digits_iff form, hexPairs_eq_some_iff, bytesOfBlock_length]
    refine and_congr_right fun _ => forall₂_congr fun i hi => ?_
    rw [bytesOfBlock_getD key hi, hexByte_eq_some_iff]
  · rw [keyParse_items_iff form, hexItems_eq_some_iff, bytesOfBlock_length]
    refine and_congr_right fun _ => forall₂_congr fun i hi => ?_
    simp only [bytesOfBlock_getD key hi, hexItem_eq_some_iff, hexByte_eq_some_iff, exists_and_left]
    rfl

end Sys2Proof.Machine
end

section
/-! PROOFS. The port: an accepted word is taken from it and runs its command, and a step that accepts no word neither
reads nor changes it (40_host_commands.md R140, R152, R154). -/

namespace Sys2Proof.Machine

open Sys2Proof.Claims

section
variable {s : State} {w : Word} {rest p : List Word}
variable {ex : Instr → State → Host.Outcome State Fault Refusal}

/-! ### Accepted words -/

theorem acceptWord_decoded {i : Instr} (decoded : decode (.command w) = .ok i) : acceptWord ex w s = ex i s := by
  rw [acceptWord, decoded]

theorem acceptWord_reservedField {e : DecodeError} (rejected : decode (.command w) = .error e) :
    acceptWord ex w s = .next (cmdErrSet s) := by
  rw [acceptWord, rejected, refuseCommand_eq_cmdErrSet]

theorem step_accepts (turn : coreTurn s = true) (accepts : acceptsCommands s.seqState = true)
    (port : s.port = w :: rest) : step s = acceptWord exec w { afterTurn s with port := rest } := by
  rw [step, turnStep_core turn, coreStep_accept (s := afterTurn s) accepts port]

theorem step_busy (turn : coreTurn s = true) (busy : acceptsCommands s.seqState = false) :
    step s = sequencerStep exec (afterTurn s) := by
  rw [step, turnStep_core turn, coreStep_sequencer (s := afterTurn s)]
  exact fun accepts => absurd (busy.symm.trans accepts) Bool.false_ne_true

/-! ### Steps with other words on the port -/

variable {c : Config}

/-- The state with other words waiting on the port. -/
def withPort (p : List Word) (s : State) : State :=
  { s with port := p }

@[simp] theorem withPort_offset : (withPort p s).offset = s.offset := rfl
@[simp] theorem withPort_buflen : (withPort p s).buflen = s.buflen := rfl
@[simp] theorem withPort_buf : (withPort p s).buf = s.buf := rfl
@[simp] theorem withPort_mode : (withPort p s).mode = s.mode := rfl
@[simp] theorem withPort_dec : (withPort p s).dec = s.dec := rfl
@[simp] theorem withPort_data : (withPort p s).data = s.data := rfl
@[simp] theorem remaining_withPort : remaining (withPort p s) = remaining s := rfl
@[simp] theorem heldKey_withPort : heldKey c (withPort p s) = heldKey c s := rfl
@[simp] theorem bufRead_withPort (i n : Nat) : bufRead (withPort p s) i n = bufRead s i n := rfl
@[simp] theorem setFlag_withPort (f : StickyFlag) : setFlag f (withPort p s) = withPort p (setFlag f s) := rfl
@[simp] theorem report_withPort (code : ResultCode) (sub : BitVec 4) (payload : Bytes) :
    report code sub payload (withPort p s) = withPort p (report code sub payload s) := rfl

theorem finish_withPort (n : Nat) : finish n (withPort p s) = withPort p (finish n s) := by
  cases mode : s.mode <;> simp only [finish, withPort_mode, mode] <;> rfl

@[simp] theorem finishFail_withPort : finishFail (withPort p s) = withPort p (finishFail s) :=
  finish_withPort 1

@[simp] theorem finishSuccess_withPort : finishSuccess c (withPort p s) = withPort p (finishSuccess c s) :=
  finish_withPort (c.F - c.V)

theorem passEnd_withPort : passEnd (withPort p s) = withPort p (passEnd s) := by
  by_cases missed : s.pass.eval = true ∧ s.pass.candSeen = false
  · rw [passEnd_emits missed.1 missed.2, passEnd_emits (s := withPort p s) missed.1 missed.2]
    rfl
  · rw [passEnd_silent missed, passEnd_silent (s := withPort p s) missed]
    rfl

theorem evaluateWindow_withPort : evaluateWindow c (withPort p s) = withPort p (evaluateWindow c s) := by
  cases passes : windowPasses c s.buf s.offset.toNat <;>
    simp only [evaluateWindow, withPort_buf, withPort_offset, passes] <;> rfl

theorem scanningEffect_withPort : scanningEffect c (withPort p s) = withPort p (scanningEffect c s) := by
  by_cases short : remaining s < c.F
  · simp [scanningEffect, short, passEnd_withPort]
  · simp [scanningEffect, short, evaluateWindow_withPort]

theorem innerEffect_withPort (raw : Bits) :
    innerEffect c raw (withPort p s) = withPort p (innerEffect c raw s) := by
  cases decoded : c.innerDecode (pack raw) with
  | none => simp [innerEffect, decoded, frameError]
  | some r => simp only [innerEffect, decoded]; rfl

theorem decAsmEffect_withPort (dec : Bytes) :
    decAsmEffect c dec (withPort p s) = withPort p (decAsmEffect c dec s) := by
  by_cases below : decodedScore c dec < c.T_D
  · simp only [decAsmEffect, if_pos below, frameError, ← finishFail_withPort]
    rfl
  · simp only [decAsmEffect, if_neg below]
    rfl

theorem outerEffect_withPort (dec : Bytes) :
    outerEffect c dec (withPort p s) = withPort p (outerEffect c dec s) := by
  cases decoded : c.outerDecode (outerBlock c dec) with
  | none => simp [outerEffect, decoded, frameError]
  | some r => simp only [outerEffect, decoded]; rfl

theorem integrityEffect_withPort (data : Bytes) :
    integrityEffect c data (withPort p s) = withPort p (integrityEffect c data s) := by
  cases intact : checksumMatches c data with
  | false => simp [integrityEffect, intact, frameError]
  | true => simp only [integrityEffect, intact]; rfl

theorem decryptEffect_withPort (key : Block) (data : Bytes) :
    decryptEffect c key data (withPort p s) = withPort p (decryptEffect c key data s) := by
  by_cases clamped : c.D < (parse c data).len <;> simp [decryptEffect, clamped]

theorem innerStep_withPort : innerStep c (withPort p s) = mapNext (withPort p) (innerStep c s) := by
  cases read : bufRead s s.offset.toNat c.F <;> simp [innerStep, read, mapNext, innerEffect_withPort]

theorem decAsmStep_withPort : decAsmStep c (withPort p s) = mapNext (withPort p) (decAsmStep c s) := by
  cases held : s.dec <;> simp [decAsmStep, held, mapNext, decAsmEffect_withPort]

theorem outerStep_withPort : outerStep c (withPort p s) = mapNext (withPort p) (outerStep c s) := by
  cases held : s.dec <;> simp [outerStep, held, mapNext, outerEffect_withPort]

theorem integrityStep_withPort : integrityStep c (withPort p s) = mapNext (withPort p) (integrityStep c s) := by
  cases held : s.data <;> simp [integrityStep, held, mapNext, integrityEffect_withPort]

theorem decryptStep_withPort : decryptStep c (withPort p s) = mapNext (withPort p) (decryptStep c s) := by
  cases held : s.data <;> simp [decryptStep, held, mapNext, decryptEffect_withPort]

/-- The sequencer's step neither reads nor changes the port. -/
theorem sequencerStep_withPort :
    sequencerStep exec (withPort p s) = mapNext (withPort p) (sequencerStep exec s) := by
  have runs {i : Instr} (selected : s.seqState.step = some i)
      (commutes : exec i (withPort p s) = mapNext (withPort p) (exec i s)) :
      sequencerStep exec (withPort p s) = mapNext (withPort p) (sequencerStep exec s) := by
    rw [sequencerStep_runs selected, sequencerStep_runs (s := withPort p s) selected, commutes]
  cases stage : s.seqState with
  | idle => rw [sequencerStep_idle stage, sequencerStep_idle (s := withPort p s) stage]; rfl
  | scanning => exact runs (congrArg SeqState.step stage) (congrArg Host.Outcome.next scanningEffect_withPort)
  | inner => exact runs (congrArg SeqState.step stage) innerStep_withPort
  | decAsm => exact runs (congrArg SeqState.step stage) decAsmStep_withPort
  | outer => exact runs (congrArg SeqState.step stage) outerStep_withPort
  | integrity => exact runs (congrArg SeqState.step stage) integrityStep_withPort
  | decrypt => exact runs (congrArg SeqState.step stage) decryptStep_withPort
  | cfgError => exact runs (congrArg SeqState.step stage) rfl

end

/-! ### The step -/

/-- Settles O10: while no command is accepted SEQ_STATE selects the step, and no such step reads the port. -/
theorem busyStepHoldsCommands : Obligations.BusyStepHoldsCommands := by
  intro s p turn busy
  rw [step_busy turn busy, step_busy (s := { s with port := p }) turn busy]
  exact sequencerStep_withPort (s := afterTurn s)

/-- Settles O7: the word at the head of the port is taken and decoded. -/
theorem stepRunsAcceptedCommand : Obligations.StepRunsAcceptedCommand := by
  intro s w rest i turn accepts port decoded
  rw [step_accepts turn accepts port, acceptWord_decoded decoded]

/-- Settles O9: a word with a defined opcode that matches no row does not decode, and is refused. -/
theorem stepRefusesReservedField : Obligations.StepRefusesReservedField := by
  intro s w rest turn accepts port small misses
  have rejected := (reservedFieldWordsAreNamed w _).2 ⟨rfl, small, misses⟩
  rw [step_accepts turn accepts port, acceptWord_reservedField rejected]

end Sys2Proof.Machine
end

section
/-! PROOFS. The pushes: the bits a push delivers after differential decoding, and the push that does not fit
(40_host_commands.md R141, R142; 41_diff_decoder.md R180). -/

namespace Sys2Proof.Machine

open Sys2Proof.Claims

/-! ### Differential decoding -/

/-- Each raw bit is exclusive-ored with the raw bit before it, the first with PREV_BIT (41_diff_decoder.md R180). -/
theorem diffDecodeAll_differential {c : Config} {m : Mode} (applies : diffApplies c m = true) (prev : Bool)
    (bits : Bits) :
    diffDecodeAll c m prev bits = (List.zipWith (· ^^ ·) bits (prev :: bits), bits.getLastD prev) := by
  induction bits generalizing prev with
  | nil => rfl
  | cons r rest ih => simp only [diffDecodeAll_cons, diffDecode, applies, if_true, ih, List.zipWith_cons_cons,
      List.getLastD_cons]

theorem diffOn_eq_diffApplies (c : Config) (s : State) : diffOn c s = diffApplies c s.mode := by
  cases mode : s.mode <;> simp [diffOn, diffApplies, mode]

/-! ### The bits of a push -/

section
variable (nm1 : BitVec 4) (data : BitVec 16) (prev : Bool)

theorem pushedBits_getLastD : (pushedBits nm1 data).getLastD prev = data.getLsbD (15 - nm1.toNat) := by
  rw [pushedBits, pushCount, List.range_succ, List.map_append, List.map_singleton, List.getLastD_concat]

theorem pushedDecoded_raw : pushedDecoded false prev nm1 data = pushedBits nm1 data := rfl

theorem pushedDecoded_differential : pushedDecoded true prev nm1 data =
    List.zipWith (· ^^ ·) (pushedBits nm1 data) (prev :: pushedBits nm1 data) := by
  refine List.ext_getElem (by simp [pushedDecoded]) fun k _ _ => ?_
  cases k with
  | zero => simp [pushedDecoded, pushedBits]
  | succ k => simp [pushedDecoded, pushedBits]

/-- The decoded bits of a push and the PREV_BIT it leaves. -/
theorem diffDecodeAll_pushedBits (c : Config) (s : State) :
    diffDecodeAll c s.mode prev (pushedBits nm1 data) = (pushedDecoded (diffOn c s) prev nm1 data,
      if diffOn c s then data.getLsbD (15 - nm1.toNat) else prev) := by
  rw [diffOn_eq_diffApplies]
  cases applies : diffApplies c s.mode with
  | false => rw [diffDecodeAll_raw applies, pushedDecoded_raw, if_neg Bool.false_ne_true]
  | true => rw [diffDecodeAll_differential applies, pushedDecoded_differential, pushedBits_getLastD, if_pos rfl]

end

/-! ### PUSH_BITS -/

section
variable {nm1 : BitVec 4} {data : BitVec 16} {s : State}

theorem exec_pushBits_fits (ready : s.seqState ≠ .cfgError)
    (fits : pushFits Config.machine (nm1.toNat + 1) s = true) :
    exec (.pushBits nm1 data) s = .next (pushRaw Config.machine (pushedBits nm1 data) s) :=
  congrArg Host.Outcome.next ((unlessCfgError_acts ready).trans (if_pos fits))

theorem exec_pushBits_overflow (ready : s.seqState ≠ .cfgError)
    (tooLong : ¬pushFits Config.machine (nm1.toNat + 1) s = true) :
    exec (.pushBits nm1 data) s = .next (setFlag .ovf s) :=
  congrArg Host.Outcome.next ((unlessCfgError_acts ready).trans (if_neg tooLong))

end

/-- Settles O15: a push that fits is the decoder run over its bits. -/
theorem pushBitsAppendsDecodedBits : Obligations.PushBitsAppendsDecodedBits := by
  intro nm1 data s ready room count
  rw [exec_pushBits_fits ready (pushFits_iff.2 ⟨room, count⟩), pushRaw_eq, diffDecodeAll_pushedBits,
    pushedBits_length]

/-- Settles O16: past either bound the push does not fit, and only OVF is set. -/
theorem pushBitsOverflowDropsWhole : Obligations.PushBitsOverflowDropsWhole := by
  intro nm1 data s ready tooLong
  refine exec_pushBits_overflow ready fun fits => ?_
  obtain ⟨room, count⟩ := pushFits_iff.1 fits
  exact tooLong.elim (Nat.not_lt.2 room) (Nat.not_lt.2 count)

end Sys2Proof.Machine
end

section
/-! PROOFS. The other commands, in every state that accepts them and in CFG_ERROR (40_host_commands.md R143 to R145,
R149 to R157). -/

namespace Sys2Proof.Machine

open Sys2Proof.Claims

variable {c : Config} {s : State}

/-! ### SCAN and DGRAM by the mode -/

theorem scanEffect_streaming (mode : s.mode = .streaming) :
    scanEffect s = { clearPassFlags s with seqState := .scanning } := by
  rw [scanEffect, mode]

theorem scanEffect_datagram (mode : s.mode = .datagram) : scanEffect s = cmdErrSet s := by
  rw [scanEffect, mode, refuseCommand_eq_cmdErrSet]

theorem dgramEffect_streaming (mode : s.mode = .streaming) : dgramEffect c s = cmdErrSet s := by
  rw [dgramEffect, mode, refuseCommand_eq_cmdErrSet]

theorem dgramEffect_whole (mode : s.mode = .datagram) (whole : s.buflen.toNat = c.F) :
    dgramEffect c s = datagramStart s := by
  simp only [dgramEffect, mode, if_pos whole]

theorem dgramEffect_wrongLength (mode : s.mode = .datagram) (wrong : s.buflen.toNat ≠ c.F) :
    dgramEffect c s = streamReset (setFlag .dlenErr s) := by
  simp only [dgramEffect, mode, if_neg wrong]

/-- Settles O17: by the mode. -/
theorem scanStartsPass : Obligations.ScanStartsPass := fun _ ready =>
  ⟨fun mode => congrArg Host.Outcome.next ((unlessCfgError_acts ready).trans (scanEffect_streaming mode)),
    fun mode => congrArg Host.Outcome.next ((unlessCfgError_acts ready).trans (scanEffect_datagram mode))⟩

/-- Settles O18: by the mode, and in datagram mode by the length. -/
theorem dgramStartsAttempt : Obligations.DgramStartsAttempt := by
  intro s ready
  have acts {t : State} (effect : dgramEffect Config.machine s = t) : exec .dgram s = .next t :=
    congrArg Host.Outcome.next ((unlessCfgError_acts ready).trans effect)
  exact ⟨fun mode whole => acts (dgramEffect_whole mode whole),
    fun mode wrong => acts (dgramEffect_wrongLength mode wrong), fun mode => acts (dgramEffect_streaming mode)⟩

/-! ### NOP, RESET_STREAM, SET_MODE and CLEAR -/

theorem streamReset_eq_emptied (s : State) : streamReset s = emptied s := rfl

/-- Settles O14: the meaning of NOP is the state itself, with no case for CFG_ERROR. -/
theorem nopChangesNothing : Obligations.NopChangesNothing := fun _ => rfl

/-- Settles O19: the command is the stream reset. -/
theorem resetStreamEmptiesStream : Obligations.ResetStreamEmptiesStream := fun s ready =>
  congrArg Host.Outcome.next ((unlessCfgError_acts ready).trans (streamReset_eq_emptied s))

/-- Settles O20: the command is the stream reset with the mode written, whatever the mode was. -/
theorem setModeResetsStream : Obligations.SetModeResetsStream := fun m s ready =>
  congrArg Host.Outcome.next ((unlessCfgError_acts ready).trans (streamReset_eq_emptied { s with mode := m }))

/-- Settles O24: the two bits clear their groups one after the other. -/
theorem clearClearsChosenGroups : Obligations.ClearClearsChosenGroups := fun cnt flg s ready =>
  congrArg Host.Outcome.next ((unlessCfgError_acts ready).trans (clearEffect_eq cnt flg s))

/-! ### READ_REG -/

theorem exec_readReg_mapped {a : BitVec 8} {w : Word} (mapped : registerAt Config.machine a s = some w) :
    exec (.readReg a) s = .next { s with responses := s.responses ++ [w] } := by
  simp only [exec, execReadReg, readRegEffect, mapped, respond]

theorem exec_readReg_unmapped {a : BitVec 8} (unmapped : registerAt Config.machine a s = none) :
    exec (.readReg a) s = .next (cmdErrSet { s with responses := s.responses ++ [0] }) := by
  simp only [exec, execReadReg, readRegEffect, unmapped, respond, refuseCommand_eq_cmdErrSet]

theorem bitView_eq (b : Bool) : bitView b = if b then 1 else 0 := by
  cases b <;> decide

theorem wideView_of_lt {v : Nat} (fits : v < 2 ^ 32) : wideView c v = BitVec.ofNat 32 v :=
  if_pos fits

/-- The register map ends at address 0x0E (10_state.md R49). -/
theorem registerAt_eq_none {a : BitVec 8} (past : 0x0F ≤ a) : registerAt c a s = none := by
  have past : 15 ≤ a.toNat := past
  rw [registerAt]
  split
  case h_16 => rfl
  all_goals omega

/-- Settles O21: address by address; FRAME_BITS fits 32 bits on every piece of this hardware. -/
theorem readRegRespondsRegister : Obligations.ReadRegRespondsRegister := by
  intro s answers free
  have answer {a : BitVec 8} {w : Word} (mapped : registerAt Config.machine a s = some w) : answers a w :=
    exec_readReg_mapped mapped
  exact ⟨answer rfl, answer rfl, answer rfl, answer (congrArg some (bitView_eq s.prevBit)), answer rfl, answer rfl,
    answer rfl, answer rfl, answer rfl, answer rfl, answer rfl, answer rfl, answer rfl, answer rfl,
    answer (congrArg some (wideView_of_lt Config.machine_frameFits))⟩

/-- Settles O22: no register is mapped there. -/
theorem readRegUnmappedRespondsZero : Obligations.ReadRegUnmappedRespondsZero := fun _ _ past =>
  exec_readReg_unmapped (registerAt_eq_none past)

/-! ### CFG_ERROR -/

theorem next_unlessCfgError_refuses {act : State → State} (stopped : s.seqState = .cfgError) :
    Host.Outcome.next (φ := Fault) (ρ := Refusal) (unlessCfgError act s) = .next (cmdErrSet s) := by
  rw [unlessCfgError_refuses stopped, refuseCommand_eq_cmdErrSet]

/-- Settles O26: each of these commands asks for CFG_ERROR first. -/
theorem cfgErrorRefusesCommands : Obligations.CfgErrorRefusesCommands := by
  rintro i s stopped (⟨nm1, data, rfl⟩ | rfl | rfl | rfl | ⟨m, rfl⟩ | ⟨cnt, flg, rfl⟩) <;>
    exact next_unlessCfgError_refuses stopped

end Sys2Proof.Machine
end

section
/-! PROOFS. The differential decoder over whole sequences: the encoder's inverse, the raw stream split into pushes, and
the inverted raw stream (41_diff_decoder.md R182 to R184). -/

namespace Sys2Proof.Machine

/-! ### Decoding bit by bit -/

section
variable {c : Config} {m : Mode} (applies : diffApplies c m = true)
include applies

/-- Where decoding applies, PREV_BIT after a raw bit is that bit (41_diff_decoder.md R180). -/
theorem diffDecodeAll_cons_differential (prev r : Bool) (rest : Bits) :
    (diffDecodeAll c m prev (r :: rest)).1 = (r ^^ prev) :: (diffDecodeAll c m r rest).1 := by
  rw [diffDecodeAll_cons, diffDecode, if_pos applies]

/-- The decoder's PREV_BIT follows the encoder's last bit, from whatever bit both start with. -/
theorem diffDecodeAll_diffEncodeAll (prev : Bool) (d : Bits) :
    (diffDecodeAll c m prev (diffEncodeAll prev d)).1 = d := by
  induction d generalizing prev with
  | nil => rfl
  | cons b rest ih =>
    have undone : (b ^^ prev ^^ prev) = b := by rw [Bool.xor_assoc, Bool.xor_self, Bool.xor_false]
    rw [diffEncodeAll, diffDecodeAll_cons_differential applies, ih, undone]

/-- An inversion of PREV_BIT and of every raw bit cancels in each exclusive or. -/
theorem diffDecodeAll_map_not (prev : Bool) (raw : Bits) :
    (diffDecodeAll c m (!prev) (raw.map (!·))).1 = (diffDecodeAll c m prev raw).1 := by
  induction raw generalizing prev with
  | nil => rfl
  | cons r rest ih =>
    rw [List.map_cons, diffDecodeAll_cons_differential applies, diffDecodeAll_cons_differential applies, ih,
      Bool.not_xor_not]

end

/-- Settles O51: the encoder and the decoder both start from 0. -/
theorem diffDecodeInvertsEncode : Obligations.DiffDecodeInvertsEncode := fun _ d =>
  diffDecodeAll_diffEncodeAll rfl false d

/-- Settles O53: the first bit meets a PREV_BIT that is not inverted, every later one a PREV_BIT that is. -/
theorem phaseInversionChangesFirstBitOnly : Obligations.PhaseInversionChangesFirstBitOnly := by
  intro c prev r rest
  have applies : diffApplies c .streaming = true := rfl
  rw [List.map_cons, diffDecodeAll_cons_differential applies, diffDecodeAll_cons_differential applies,
    diffDecodeAll_map_not applies, Bool.not_xor, List.drop_one, List.tail_cons]

/-! ### Pushing in parts -/

theorem pushRaw_append (c : Config) (a b : Bits) (s : State) :
    pushRaw c (a ++ b) s = pushRaw c b (pushRaw c a s) := by
  induction a generalizing s with
  | nil => rfl
  | cons r rest ih => exact ih (pushBit c r s)

/-- Settles O52: a push leaves all that the next one needs in the state, PREV_BIT with it. -/
theorem pushSplitsAnywhere : Obligations.PushSplitsAnywhere := fun c a b s =>
  ⟨pushRaw_append c a b s, congrArg State.buf (pushRaw_eq c a s), congrArg State.prevBit (pushRaw_eq c a s)⟩

end Sys2Proof.Machine
end

section
/-! PROOFS. The scanner: the score of a window, the step at one window, and the first window that passes (42_scanner.md
R201 to R207). -/

namespace Sys2Proof.Machine

open Sys2Proof.Claims

/-! ### Scores as counts of agreeing bits -/

/-- Counting past a bound above which the predicate fails adds nothing. -/
theorem countP_range_of_false_above {p : Nat → Bool} {m n : Nat} (le : m ≤ n) (above : ∀ i, m ≤ i → p i = false) :
    (List.range n).countP p = (List.range m).countP p := by
  obtain ⟨k, rfl⟩ := Nat.exists_eq_add_of_le le
  have rest : ((List.range k).map (m + ·)).countP p = 0 := by
    rw [List.countP_eq_zero]
    simp [above]
  rw [List.range_add, List.countP_append, rest, Nat.add_zero]

/-- The 1 bits of an `n`-bit number are among its `n` low bits (00_scope.md R15). -/
theorem popcount_eq_countP_range {x n : Nat} (h : x < 2 ^ n) :
    popcount x = (List.range n).countP fun i => x.testBit i := by
  have above {m : Nat} (bound : x < 2 ^ m) (i : Nat) (le : m ≤ i) : x.testBit i = false :=
    Nat.testBit_lt_two_pow (bound.trans_le (Nat.pow_le_pow_right Nat.two_pos le))
  rcases Nat.le_total n (x.log2 + 1) with le | le
  · exact countP_range_of_false_above le (above h)
  · exact (countP_range_of_false_above le (above Nat.lt_log2_self)).symm

section
variable {n x y : Nat} (hx : x < 2 ^ n) (hy : y < 2 ^ n)
include hx hy

/-- Two `n`-bit patterns agree on the bits on which they do not differ. -/
theorem agreeing_add_popcount_xor : agreeing n x y + popcount (x ^^^ y) = n := by
  have agree : agreeing n x y = (List.range n).countP fun i => ¬ (x ^^^ y).testBit i := by
    refine List.countP_congr fun i _ => ?_
    rw [Nat.testBit_xor]
    cases x.testBit i <;> cases y.testBit i <;> decide
  rw [agree, popcount_eq_countP_range (Nat.xor_lt_two_pow hx hy), Nat.add_comm,
    ← List.length_eq_countP_add_countP, List.length_range]

theorem popcount_xor_le : popcount (x ^^^ y) ≤ n :=
  (Nat.le_add_left ..).trans_eq (agreeing_add_popcount_xor hx hy)

theorem matchScore_eq_agreeing : matchScore n x y = agreeing n x y := by
  have total := agreeing_add_popcount_xor hx hy
  rw [matchScore]
  omega

end

theorem matchScore_self (n x : Nat) : matchScore n x x = n := by
  rw [matchScore, Nat.xor_self]
  exact Nat.sub_zero n

theorem windowPasses_iff {c : Config} {buf : Bits} {o : Nat} :
    windowPasses c buf o = true ↔ c.T_C ≤ windowScore c buf o :=
  decide_eq_true_iff

/-- A window inside the buffer is a `W`-bit pattern. -/
theorem toInt_window_lt {buf : Bits} {o w : Nat} (inside : o + w ≤ buf.length) : toInt (slice buf o w) < 2 ^ w := by
  have len : (slice buf o w).length = w := by
    rw [slice_length]
    omega
  exact (toInt_lt _).trans_eq (congrArg (2 ^ ·) len)

/-- Settles O49: agreeing and differing bits add up to the `W` bits of the window. -/
theorem windowScoreCountsAgreement : Obligations.WindowScoreCountsAgreement := by
  intro c buf o legal inside win
  obtain ⟨-, -, -, casm, threshold, -⟩ := legal.numbers
  have window : win < 2 ^ c.W := toInt_window_lt inside
  have distance := popcount_xor_le window casm
  have score : windowScore c buf o = c.W - popcount (win ^^^ c.CASM) := rfl
  refine ⟨matchScore_eq_agreeing window casm, score, distance, windowPasses_iff, ?_, ?_⟩
  · rw [windowPasses_iff, score]
    omega
  · intro copy
    rw [score, copy]
    exact matchScore_self c.W c.CASM

/-! ### The step at one window -/

section
variable {c : Config} {s : State}

theorem scanningEffect_frame (frame : c.F ≤ remaining s) : scanningEffect c s = evaluateWindow c s :=
  if_neg (Nat.not_lt.2 frame)

/-- A window that passes starts an attempt with its score latched (42_scanner.md R202, 46_resync_sequencer.md R282). -/
theorem evaluateWindow_passes (passes : windowPasses c s.buf s.offset.toNat = true) :
    evaluateWindow c s = { s with
      latches := { cscore := BitVec.ofNat 32 (windowScore c s.buf s.offset.toNat), dscore := 0, icorr := 0, ocorr := 0 }
      pass := { eval := true, candSeen := true }
      seqState := .inner } := by
  simp only [evaluateWindow, passes, if_true, attemptStart, notePass, Bool.or_true]

/-- A window that fails moves OFFSET on by one bit (42_scanner.md R203). -/
theorem evaluateWindow_fails (fails : windowPasses c s.buf s.offset.toNat = false) :
    evaluateWindow c s = { s with
      latches := { s.latches with cscore := BitVec.ofNat 32 (windowScore c s.buf s.offset.toNat) }
      pass := { eval := true, candSeen := s.pass.candSeen }
      offset := s.offset + 1
      seqState := .scanning } := by
  simp only [evaluateWindow, fails, Bool.false_eq_true, if_false, advance, notePass, Bool.or_false]
  rfl

end

/-- Settles O28: by the outcome of the window. -/
theorem scanningScoresWindow : Obligations.ScanningScoresWindow := by
  intro s frame c score
  have evaluated : exec .seqScanning s = .next (evaluateWindow c s) :=
    congrArg Host.Outcome.next (scanningEffect_frame frame)
  rw [evaluated]
  by_cases reaches : c.T_C ≤ score
  · rw [if_pos reaches, evaluateWindow_passes (windowPasses_iff.2 reaches)]
    rfl
  · rw [if_neg reaches, evaluateWindow_fails (decide_eq_false reaches)]
    rfl

/-! ### Runs -/

section
variable {c : Config} {s t u : State}

theorem runsTo_one (h : stepAt c s = .next t) : runsTo c 1 s t := ⟨t, h, rfl⟩

theorem runsTo_append {m n : Nat} (first : runsTo c m s u) (second : runsTo c n u t) : runsTo c (m + n) s t := by
  induction m generalizing s with
  | zero =>
    cases first
    rwa [Nat.zero_add]
  | succ m ih =>
    obtain ⟨v, head, tail⟩ := first
    rw [Nat.succ_add]
    exact ⟨v, head, ih tail⟩

/-- With no turn of another agent to come, a state that takes no command runs the step SEQ_STATE selects
(46_resync_sequencer.md R280). -/
theorem stepAt_sequencer {i : Instr} (turns : s.turns = []) (busy : acceptsCommands s.seqState = false)
    (selected : s.seqState.step = some i) : stepAt c s = execAt c i s := by
  have ours : stepAt c s = coreStep (execAt c) s := by simp only [stepAt, turnStep, turns]
  rw [ours, coreStep_sequencer (by simp [busy]), sequencerStep_runs selected]

/-- A step of SCANNING with a frame left evaluates the window at OFFSET (42_scanner.md R202, R204). -/
theorem stepAt_scanning (turns : s.turns = []) (scanning : s.seqState = .scanning)
    (frame : s.offset.toNat + c.F ≤ s.buflen.toNat) : stepAt c s = .next (evaluateWindow c s) := by
  have enough : c.F ≤ remaining s := Nat.le_sub_of_add_le' frame
  rw [stepAt_sequencer turns (by rw [scanning]; rfl) (congrArg SeqState.step scanning), ← scanningEffect_frame enough]
  rfl

/-- The state with OFFSET moved on by `n` bits, and with the latches and pass flags the scanner wrote on the way. -/
def movedOn (n : Nat) (l : Latches) (p : PassFlags) (s : State) : State :=
  { s with offset := s.offset + BitVec.ofNat 32 n, latches := l, pass := p }

section
variable (n : Nat) (l : Latches) (p : PassFlags)

@[simp] theorem movedOn_buflen : (movedOn n l p s).buflen = s.buflen := rfl
@[simp] theorem movedOn_buf : (movedOn n l p s).buf = s.buf := rfl

theorem movedOn_offset (inside : s.offset.toNat + n ≤ s.buflen.toNat) :
    (movedOn n l p s).offset.toNat = s.offset.toNat + n :=
  offset_add inside

/-- One more window that fails moves on by one more bit. -/
theorem evaluateWindow_movedOn (scanning : s.seqState = .scanning)
    (fails : windowPasses c s.buf (movedOn n l p s).offset.toNat = false) :
    ∃ l' p', evaluateWindow c (movedOn n l p s) = movedOn (n + 1) l' p' s := by
  have offset : s.offset + BitVec.ofNat 32 n + 1 = s.offset + BitVec.ofNat 32 (n + 1) := by
    rw [BitVec.ofNat_add, ← BitVec.add_assoc]
    rfl
  rw [evaluateWindow_fails fails]
  simp only [movedOn, offset, scanning]
  exact ⟨_, _, rfl⟩

end

/-- `n` windows that fail take `n` steps, which move OFFSET on by `n` bits (42_scanner.md R203). -/
theorem runsTo_movedOn {n : Nat} (turns : s.turns = []) (scanning : s.seqState = .scanning)
    (frame : s.offset.toNat + n + c.F ≤ s.buflen.toNat)
    (fail : ∀ o, s.offset.toNat ≤ o → o < s.offset.toNat + n → windowPasses c s.buf o = false) :
    ∃ l p, runsTo c n s (movedOn n l p s) := by
  induction n with
  | zero => exact ⟨s.latches, s.pass, by simp [runsTo, movedOn]⟩
  | succ n ih =>
    obtain ⟨l, p, run⟩ := ih (by omega) fun o start before => fail o start (by omega)
    have offset : (movedOn n l p s).offset.toNat = s.offset.toNat + n := movedOn_offset n l p (by omega)
    obtain ⟨l', p', moved⟩ := evaluateWindow_movedOn n l p scanning (fail _ (by omega) (by omega))
    have last : stepAt c (movedOn n l p s) = .next (evaluateWindow c (movedOn n l p s)) :=
      stepAt_scanning turns scanning (by rw [offset, movedOn_buflen]; omega)
    exact ⟨l', p', runsTo_append run (runsTo_one (moved ▸ last))⟩

end

/-- Settles O48: the windows that fail move OFFSET to the first that passes, and one step more takes it. -/
theorem scannerTakesFirstMatch : Obligations.ScannerTakesFirstMatch := by
  intro c s k _ _ turns scanning start frame passes fail
  obtain ⟨n, rfl⟩ := Nat.exists_eq_add_of_le start
  obtain ⟨l, p, run⟩ := runsTo_movedOn turns scanning frame fail
  have offset : (movedOn n l p s).offset.toNat = s.offset.toNat + n := movedOn_offset n l p (by omega)
  have last : stepAt c (movedOn n l p s) = .next (evaluateWindow c (movedOn n l p s)) :=
    stepAt_scanning turns scanning (by rwa [offset, movedOn_buflen])
  rw [evaluateWindow_passes (by rwa [offset, movedOn_buf]), offset, movedOn_buf] at last
  rw [Nat.add_sub_cancel_left]
  exact ⟨_, runsTo_append run (runsTo_one last), rfl, offset, rfl, rfl, rfl⟩

end Sys2Proof.Machine
end

section
/-! PROOFS. The FEC adapter: what INNER, DEC_ASM and OUTER write on a success, the end of an attempt that fails, and the
codec bindings that are no configuration (43_fec_adapter.md R220 to R227). -/

namespace Sys2Proof.Machine

open Sys2Proof.Claims

section
variable {c : Config} {s : State} {dec : Bytes} {n : Nat}

/-! ### The end of an attempt -/

/-- The model's end of an attempt is that of the statements, mode by mode (46_resync_sequencer.md R284, R288). -/
theorem finish_eq_attemptEnded (n : Nat) (s : State) : finish n s = attemptEnded n s := by
  cases mode : s.mode with
  | streaming =>
    rw [finish_streaming mode]
    simp only [attemptEnded, advance, mode]
  | datagram =>
    rw [finish_datagram mode]
    simp only [attemptEnded, mode]
    rfl

/-- A frame-level error builds its record before the attempt ends (60_exceptions.md R321, 46_resync_sequencer.md R286). -/
theorem frameError_finish (code : ResultCode) (sub : BitVec 4) (n : Nat) (s : State) :
    frameError code sub (finish n) s = attemptEnded n { s with
      results := s.results ++ [recordAt code sub [] s]
      counters := countResult code s.counters } :=
  finish_eq_attemptEnded n (report code sub [] s)

/-! ### INNER -/

theorem innerEffect_decodes {raw : Bits} (decoded : c.innerDecode (pack raw) = some (dec, n)) :
    innerEffect c raw s = { s with
      dec := some dec
      latches := { s.latches with icorr := BitVec.ofNat 32 n }
      seqState := .decAsm } := by
  rw [innerEffect, decoded]

theorem innerEffect_fails {raw : Bits} (failed : c.innerDecode (pack raw) = none) :
    innerEffect c raw s = attemptEnded 1 { s with
      results := s.results ++ [recordAt .innerDecodeFailure 1 [] s]
      counters := { s.counters with inner := s.counters.inner + 1 } } := by
  rw [innerEffect, failed]
  exact frameError_finish .innerDecodeFailure 1 1 s

/-! ### DEC_ASM -/

/-- DEC_ASM latches its score before it compares it (43_fec_adapter.md R224). -/
def withDscore (score : Nat) (s : State) : State :=
  { s with latches := { s.latches with dscore := BitVec.ofNat 32 score } }

theorem decAsmEffect_confirms (reaches : c.T_D ≤ decodedScore c dec) :
    decAsmEffect c dec s = { withDscore (decodedScore c dec) s with seqState := .outer } :=
  if_neg (Nat.not_lt.2 reaches)

theorem decAsmEffect_fails (below : decodedScore c dec < c.T_D) :
    decAsmEffect c dec s = attemptEnded 1 { withDscore (decodedScore c dec) s with
      results := s.results ++ [recordAt .innerDecodeFailure 2 [] (withDscore (decodedScore c dec) s)]
      counters := { s.counters with inner := s.counters.inner + 1 } } :=
  (if_pos below).trans (frameError_finish .innerDecodeFailure 2 1 (withDscore (decodedScore c dec) s))

/-! ### OUTER -/

theorem outerEffect_decodes {data : Bytes} (decoded : c.outerDecode (outerBlock c dec) = some (data, n)) :
    outerEffect c dec s = { s with
      data := some data
      latches := { s.latches with ocorr := BitVec.ofNat 32 n }
      seqState := .integrity } := by
  rw [outerEffect, decoded]

theorem outerEffect_fails (failed : c.outerDecode (outerBlock c dec) = none) :
    outerEffect c dec s = attemptEnded 1 { s with
      results := s.results ++ [recordAt .outerDecodeFailure 0 [] s]
      counters := { s.counters with outer := s.counters.outer + 1 } } := by
  rw [outerEffect, failed]
  exact frameError_finish .outerDecodeFailure 0 1 s

end

/-- Settles O29: by the answer of the inner codec. -/
theorem innerDecodesRawFrame : Obligations.InnerDecodesRawFrame := by
  intro s inside
  refine (innerStep_inside inside).trans (congrArg Host.Outcome.next ?_)
  cases answer : Config.machine.innerDecode (pack ((s.buf.drop s.offset.toNat).take Config.machine.F)) with
  | none => exact innerEffect_fails answer
  | some _ => exact innerEffect_decodes answer

/-- Settles O30: by whether the score reaches the threshold. -/
theorem decAsmConfirmsMarker : Obligations.DecAsmConfirmsMarker := by
  intro s dec held c score t
  refine (decAsmStep_written held).trans (congrArg Host.Outcome.next ?_)
  by_cases reaches : c.T_D ≤ score
  · rw [if_pos reaches]
    exact decAsmEffect_confirms reaches
  · rw [if_neg reaches]
    exact decAsmEffect_fails (Nat.lt_of_not_le reaches)

/-- Settles O31: by the answer of the outer codec. -/
theorem outerDecodesBlock : Obligations.OuterDecodesBlock := by
  intro s dec held
  refine (outerStep_written held).trans (congrArg Host.Outcome.next ?_)
  cases answer : Config.machine.outerDecode ((dec.drop (Config.machine.A / 8)).take Config.machine.N) with
  | none => exact outerEffect_fails answer
  | some _ => exact outerEffect_decodes answer

/-- Settles O60: a legal configuration keeps the length contract of each codec, so one that breaks a contract is not
legal. -/
theorem bootRefusesWrongLengthCodecs : Obligations.BootRefusesWrongLengthCodecs :=
  fun _ raw out n =>
    ⟨fun len answer wrong => boot_illegal fun legal => wrong (legal.innerLength raw out n len answer),
      fun len answer wrong => boot_illegal fun legal => wrong (legal.outerLength raw out n len answer)⟩

end Sys2Proof.Machine
end

section
/-! PROOFS. The CRC and the INTEGRITY step: no two contents of one byte of the range give the same CRC, and both
outcomes of the comparison (44_parser_integrity.md R242 to R246). -/

namespace Sys2Proof.Machine

open Sys2Proof.Claims

/-! ### The CRC, bit by bit and byte by byte -/

/-- The polynomial has its top bit set and the shift clears it, so a step's top bit tells which branch it took
(44_parser_integrity.md R242). -/
theorem crcBit_msb (crc : Word) : (crcBit crc).getLsbD 31 = crc.getLsbD 0 := by
  unfold crcBit
  cases low : crc.getLsbD 0 <;> simp

/-- Equal results took the same branch, so their shifted words agree, and with them every bit that was shifted. -/
theorem crcBit_injective : Function.Injective crcBit := by
  intro a b same
  have low : a.getLsbD 0 = b.getLsbD 0 := by rw [← crcBit_msb, ← crcBit_msb, same]
  have shifted : a >>> 1 = b >>> 1 := by
    rw [crcBit, crcBit, low] at same
    split at same
    · exact (BitVec.xor_left_inj _).1 same
    · exact same
  refine BitVec.eq_of_getLsbD_eq fun i _ => ?_
  cases i with
  | zero => exact low
  | succ i =>
    have bit := congrArg (·.getLsbD i) shifted
    rwa [BitVec.getLsbD_ushiftRight, BitVec.getLsbD_ushiftRight, Nat.add_comm] at bit

theorem crcBits_injective : Function.Injective crcBits :=
  crcBit_injective.iterate 8

/-- One byte of the CRC loses nothing of the CRC before it. -/
theorem crcByte_injective_left (x : Byte) : Function.Injective (crcByte · x) := fun _ _ same =>
  (BitVec.xor_left_inj _).1 (crcBits_injective same)

/-- One byte of the CRC loses nothing of the byte. -/
theorem crcByte_injective_right (crc : Word) : Function.Injective (crcByte crc) := by
  intro x y same
  have extended : BitVec.zeroExtend 32 x = BitVec.zeroExtend 32 y := (BitVec.xor_right_inj _).1 (crcBits_injective same)
  have low := congrArg (BitVec.setWidth 8) extended
  rwa [BitVec.setWidth_setWidth_of_le x (by decide), BitVec.setWidth_setWidth_of_le y (by decide), BitVec.setWidth_eq,
    BitVec.setWidth_eq] at low

/-! ### The CRC of a sequence with one byte changed -/

theorem foldl_crcByte_injective (b : Bytes) : Function.Injective fun crc => b.foldl crcByte crc := by
  induction b with
  | nil => exact Function.injective_id
  | cons x rest ih => exact ih.comp (crcByte_injective_left x)

/-- The CRCs differ at the byte changed, and the bytes after it, which are the same, keep them apart. -/
theorem foldl_crcByte_set_ne {b : Bytes} {j : Nat} {x : Byte} (inside : j < b.length) (changed : b.getD j 0 ≠ x)
    (crc : Word) : (b.set j x).foldl crcByte crc ≠ b.foldl crcByte crc := by
  induction b generalizing j crc with
  | nil => exact absurd inside (Nat.not_lt_zero j)
  | cons y rest ih =>
    cases j with
    | zero => exact fun same => changed (crcByte_injective_right crc (foldl_crcByte_injective rest same)).symm
    | succ j => exact ih (Nat.lt_of_succ_lt_succ inside) changed (crcByte crc y)

theorem crc32_set_ne {b : Bytes} {j : Nat} {x : Byte} (inside : j < b.length) (changed : b.getD j 0 ≠ x) :
    crc32 (b.set j x) ≠ crc32 b := fun same =>
  foldl_crcByte_set_ne inside changed 0xFFFFFFFF#32 ((BitVec.xor_left_inj _).1 same)

/-! ### The range of the CRC -/

section
variable {c : Config} {data : Bytes} {i : Nat}

/-- The range by its bounds (44_parser_integrity.md R243). -/
theorem crcRange_eq (c : Config) (data : Bytes) : crcRange c data = (data.drop 2).take (c.K - 4 - 2) := by
  have width : c.R + c.C + c.D = c.K - 4 - 2 := by
    rw [Config.K]
    omega
  rw [crcRange, slice, width]

theorem crcRange_length (len : data.length = c.K) : (crcRange c data).length = c.K - 4 - 2 := by
  rw [crcRange_eq, List.length_take, List.length_drop]
  omega

/-- Byte `i` of the Payload is byte `i - 2` of the range. -/
theorem crcRange_getD (start : 2 ≤ i) (stop : i < c.K - 4) : (crcRange c data).getD (i - 2) 0 = data.getD i 0 := by
  have below : i - 2 < c.K - 4 - 2 := by omega
  rw [crcRange_eq, List.getD_eq_getElem?_getD, List.getElem?_take_of_lt below, List.getElem?_drop,
    Nat.add_sub_cancel' start, List.getD_eq_getElem?_getD]

theorem crcRange_set (start : 2 ≤ i) (x : Byte) : crcRange c (data.set i x) = (crcRange c data).set (i - 2) x := by
  rw [crcRange_eq, crcRange_eq, List.drop_set, if_neg (Nat.not_lt.2 start), List.take_set]

/-- The length field is not covered (44_parser_integrity.md R246). -/
theorem crcRange_set_length (before : i < 2) (x : Byte) : crcRange c (data.set i x) = crcRange c data := by
  rw [crcRange_eq, crcRange_eq, List.drop_set_of_lt before]

end

/-- Settles O55: a byte of the range is a byte of the CRC's input, and one of the length field is not. -/
theorem crcDetectsByteChange : Obligations.CrcDetectsByteChange := by
  intro c data i x len
  refine ⟨fun start stop changed => ?_, fun before => crcRange_set_length before x⟩
  have inside : i - 2 < (crcRange c data).length := by
    rw [crcRange_length len]
    omega
  rw [crcRange_set start]
  exact crc32_set_ne inside (by rwa [crcRange_getD start stop])

/-! ### INTEGRITY -/

section
variable {c : Config} {s : State} {data : Bytes}

theorem checksumMatches_iff :
    checksumMatches c data = true ↔ (crc32 ((data.drop 2).take (c.K - 4 - 2))).toNat = le32 data (c.K - 4) := by
  rw [checksumMatches, beq_iff_eq, crcRange_eq]
  rfl

theorem integrityEffect_agrees (agrees : checksumMatches c data = true) :
    integrityEffect c data s = { s with seqState := .decrypt } :=
  if_pos agrees

theorem integrityEffect_differs (differs : ¬ checksumMatches c data = true) :
    integrityEffect c data s = attemptEnded (c.F - c.V) { s with
      results := s.results ++ [recordAt .integrityMismatch 0 [] s]
      counters := { s.counters with integ := s.counters.integ + 1 } } :=
  (if_neg differs).trans (frameError_finish .integrityMismatch 0 (c.F - c.V) s)

end

/-- Settles O32: by whether the computed and the stored checksum agree. -/
theorem integrityComparesChecksum : Obligations.IntegrityComparesChecksum := by
  intro s data held c
  refine (integrityStep_written held).trans (congrArg Host.Outcome.next ?_)
  by_cases agrees : checksumMatches c data = true
  · rw [if_pos (checksumMatches_iff.1 agrees)]
    exact integrityEffect_agrees agrees
  · rw [if_neg (mt checksumMatches_iff.2 agrees)]
    exact integrityEffect_differs agrees

end Sys2Proof.Machine
end

section
/-! PROOFS. CBC over whole regions: the bytes of a block sequence and its blocks, the chaining and its inverse, and the
DECRYPT step (45_decryptor.md R260 to R266). -/

namespace Sys2Proof.Machine

open Sys2Proof.Claims

/-! ### Blocks by their bytes -/

section
variable {a b : Block} {i : Nat}

/-- The sixteen bytes of a block determine it. -/
theorem block_eq_of_blockByte_eq (same : ∀ i < 16, blockByte a i = blockByte b i) : a = b :=
  bytesOfBlock_injective (List.map_congr_left fun i inside => same i (List.mem_range.1 inside))

theorem blockByte_xor : blockByte (a ^^^ b) i = blockByte a i ^^^ blockByte b i :=
  BitVec.extractLsb'_xor

theorem blockByte_zero : blockByte 0 i = 0 :=
  BitVec.extractLsb'_zero

end

/-! ### A region of whole blocks -/

section
variable {bs : List Block}

theorem bytesOfBlocks_length (bs : List Block) : (bytesOfBlocks bs).length = 16 * bs.length := by
  induction bs with
  | nil => rfl
  | cons b rest ih =>
    rw [bytesOfBlocks, List.length_append, bytesOfBlock_length, ih, List.length_cons]
    omega

/-- Block `j` takes the sixteen bytes from `16 * j` on (45_decryptor.md R261). -/
theorem slice_bytesOfBlocks {j : Nat} (inside : j < bs.length) :
    slice (bytesOfBlocks bs) (16 * j) 16 = bytesOfBlock (bs.getD j 0) := by
  induction bs generalizing j with
  | nil => cases inside
  | cons b rest ih =>
    cases j with
    | zero => exact List.take_left' (bytesOfBlock_length b)
    | succ j =>
      have past : 16 * (j + 1) = (bytesOfBlock b).length + 16 * j := by
        rw [bytesOfBlock_length]
        omega
      rw [slice, past, bytesOfBlocks, List.drop_length_add_append]
      exact ih (Nat.lt_of_succ_lt_succ inside)

theorem bytesOfBlocks_getD {i j : Nat} (inside : j < bs.length) (h : i < 16) :
    (bytesOfBlocks bs).getD (16 * j + i) 0 = blockByte (bs.getD j 0) i := by
  rw [← bytesOfBlock_getD _ h, ← slice_bytesOfBlocks inside, slice, List.getD_eq_getElem?_getD,
    List.getD_eq_getElem?_getD, List.getElem?_take_of_lt h, List.getElem?_drop]

/-- Cutting the bytes of a block sequence into blocks gives the sequence back. -/
theorem cipherBlocks_bytesOfBlocks {d : Nat} (size : d = 16 * bs.length) : cipherBlocks d (bytesOfBlocks bs) = bs := by
  have count : d / 16 = bs.length := by omega
  refine List.ext_getElem (by simp [cipherBlocks, count]) fun j _ inside => ?_
  simp [cipherBlocks, cipherBlock, slice_bytesOfBlocks inside, blockOfBytes_bytesOfBlock, inside]

/-- Every region of whole blocks is the bytes of a block sequence. -/
theorem exists_bytesOfBlocks_eq {n : Nat} {b : Bytes} (len : b.length = 16 * n) :
    ∃ bs : List Block, bs.length = n ∧ bytesOfBlocks bs = b := by
  induction n generalizing b with
  | zero => exact ⟨[], rfl, (List.eq_nil_of_length_eq_zero len).symm⟩
  | succ n ih =>
    have head : (b.take 16).length = 16 := by
      rw [List.length_take]
      omega
    have tail : (b.drop 16).length = 16 * n := by
      rw [List.length_drop]
      omega
    obtain ⟨bs, rfl, rest⟩ := ih tail
    refine ⟨blockOfBytes (b.take 16) :: bs, rfl, ?_⟩
    rw [bytesOfBlocks, bytesOfBlock_blockOfBytes head, rest, List.take_append_drop]

end

/-! ### The chaining -/

section
variable {c : Config} {key prev : Block} {bs : List Block}

theorem cbcDecryptFrom_length : (cbcDecryptFrom c key prev bs).length = bs.length := by
  induction bs generalizing prev with
  | nil => rfl
  | cons ct rest ih => exact congrArg (· + 1) ih

theorem cbcEncryptFrom_length : (cbcEncryptFrom c key prev bs).length = bs.length := by
  induction bs generalizing prev with
  | nil => rfl
  | cons p rest ih => exact congrArg (· + 1) ih

/-- Both directions chain on the same ciphertext block, which the exclusive or cancels. -/
theorem cbcDecryptFrom_cbcEncryptFrom (legal : c.Legal) :
    cbcDecryptFrom c key prev (cbcEncryptFrom c key prev bs) = bs := by
  induction bs generalizing prev with
  | nil => rfl
  | cons p rest ih =>
    rw [cbcEncryptFrom, cbcDecryptFrom, legal.blockInverse, ih, BitVec.xor_assoc, BitVec.xor_self, BitVec.xor_zero]

/-- Block `j` is chained with block `j` of the sequence that starts with the block before. -/
theorem cbcDecryptFrom_getD {j : Nat} (inside : j < bs.length) :
    (cbcDecryptFrom c key prev bs).getD j 0 = c.blockDec key (bs.getD j 0) ^^^ (prev :: bs).getD j 0 := by
  induction bs generalizing prev j with
  | nil => cases inside
  | cons ct rest ih =>
    cases j with
    | zero => rfl
    | succ j => exact ih (Nat.lt_of_succ_lt_succ inside)

section
variable (size : c.D = 16 * bs.length)
include size

theorem cbcDecrypt_bytesOfBlocks : cbcDecrypt c key (bytesOfBlocks bs) = bytesOfBlocks (cbcDecryptFrom c key 0 bs) := by
  rw [cbcDecrypt, cipherBlocks_bytesOfBlocks size]

theorem cbcEncrypt_bytesOfBlocks : cbcEncrypt c key (bytesOfBlocks bs) = bytesOfBlocks (cbcEncryptFrom c key 0 bs) := by
  rw [cbcEncrypt, cipherBlocks_bytesOfBlocks size]

theorem cbcDecrypt_cbcEncrypt (legal : c.Legal) :
    cbcDecrypt c key (cbcEncrypt c key (bytesOfBlocks bs)) = bytesOfBlocks bs := by
  rw [cbcEncrypt_bytesOfBlocks size, cbcDecrypt_bytesOfBlocks (by rwa [cbcEncryptFrom_length]),
    cbcDecryptFrom_cbcEncryptFrom legal]

theorem cbcDecrypt_length : (cbcDecrypt c key (bytesOfBlocks bs)).length = c.D := by
  rw [cbcDecrypt_bytesOfBlocks size, bytesOfBlocks_length, cbcDecryptFrom_length, size]

theorem cbcDecrypt_getD {i j : Nat} (inside : j < bs.length) (h : i < 16) :
    (cbcDecrypt c key (bytesOfBlocks bs)).getD (16 * j + i) 0 =
      blockByte (c.blockDec key (bs.getD j 0)) i ^^^ blockByte ((0 :: bs).getD j 0) i := by
  rw [cbcDecrypt_bytesOfBlocks size, bytesOfBlocks_getD (by rwa [cbcDecryptFrom_length]) h, cbcDecryptFrom_getD inside,
    blockByte_xor]

end

/-- The bytes of the block before block `j`, those of the all-zero IV before the first (45_decryptor.md R260). -/
theorem blockByte_before {i j : Nat} (inside : j < bs.length) (h : i < 16) :
    blockByte ((0 :: bs).getD j 0) i = if j = 0 then 0 else (bytesOfBlocks bs).getD (16 * (j - 1) + i) 0 := by
  cases j with
  | zero => exact blockByte_zero
  | succ j => exact (bytesOfBlocks_getD (Nat.lt_of_succ_lt inside) h).symm

/-- In a legal configuration the data region is whole blocks (00_scope.md R7). -/
theorem exists_dataBlocks (legal : c.Legal) {b : Bytes} (len : b.length = c.D) :
    ∃ bs : List Block, c.D = 16 * bs.length ∧ bytesOfBlocks bs = b := by
  obtain ⟨-, -, -, -, -, -, -, -, whole, -⟩ := legal.numbers
  have size : c.D = 16 * (c.D / 16) := by omega
  obtain ⟨bs, count, bytes⟩ := exists_bytesOfBlocks_eq (len.trans size)
  exact ⟨bs, by rw [count, ← size], bytes⟩

end

/-- Settles O56: plaintext and ciphertext are the bytes of block sequences. -/
theorem cbcDecryptInvertsEncrypt : Obligations.CbcDecryptInvertsEncrypt := by
  intro c key p legal plainLen
  refine ⟨?_, fun ct cipherLen => ?_⟩
  · obtain ⟨bs, size, rfl⟩ := exists_dataBlocks legal plainLen
    exact cbcDecrypt_cbcEncrypt size legal
  · obtain ⟨bs, size, rfl⟩ := exists_dataBlocks legal cipherLen
    refine ⟨cbcDecrypt_length size, fun j b inside bytes i h => ?_⟩
    have inside : j < bs.length := by omega
    have block : b = bs.getD j 0 :=
      block_eq_of_blockByte_eq fun i h => (bytes i h).trans (bytesOfBlocks_getD inside h)
    rw [cbcDecrypt_getD size inside h, blockByte_before inside h, block]

/-! ### DECRYPT -/

/-- The whole of DECRYPT: LEN_CLAMP, the record and its count, the end of the attempt (45_decryptor.md R263). -/
theorem decryptEffect_eq (c : Config) (key : Block) (data : Bytes) (s : State) :
    decryptEffect c key data s = attemptEnded (c.F - c.V) { s with
      flags := { s.flags with lenClamp := if c.D < (parse c data).len then true else s.flags.lenClamp }
      results := s.results ++ [recordAt .ok 0 (okPayload c key data) s]
      counters := { s.counters with ok := s.counters.ok + 1 } } := by
  refine (finish_eq_attemptEnded (c.F - c.V) _).trans ?_
  by_cases clamped : c.D < (parse c data).len
  · rw [if_pos clamped, if_pos clamped]
    rfl
  · rw [if_neg clamped, if_neg clamped]
    rfl

/-- Settles O33: DECRYPT uses the statement's key, by whether KEY holds a value. -/
theorem decryptEmitsPayload : Obligations.DecryptEmitsPayload := by
  intro s data held c key
  have used : heldKey c s = key := by
    cases holds : s.key with
    | none => exact (heldKey_unheld holds).trans (by simp only [key, holds])
    | some k => exact (heldKey_held holds).trans (by simp only [key, holds])
  rw [← used]
  exact (decryptStep_written held).trans (congrArg Host.Outcome.next (decryptEffect_eq c (heldKey c s) data s))

end Sys2Proof.Machine
end

section
/-! PROOFS. The step SEQ_STATE selects, and the end of a pass (46_resync_sequencer.md R280, R283). -/

namespace Sys2Proof.Machine

open Sys2Proof.Claims

section
variable {c : Config} {s : State} {ex : Instr → State → Host.Outcome State Fault Refusal}

/-- The core's step where no command is accepted is the sequencer's (40_host_commands.md R154). -/
theorem turnStep_sequencer (turn : coreTurn s = true) (held : acceptsCommands s.seqState = true → s.port = []) :
    turnStep c ex s = sequencerStep ex (afterTurn s) := by
  rw [turnStep_core turn, coreStep_sequencer (s := afterTurn s) held]

/-- PassEnd field by field (46_resync_sequencer.md R283). -/
theorem passEnd_eq (s : State) : passEnd s =
    if s.pass.eval = true ∧ s.pass.candSeen = false then
      { s with
        results := s.results ++ [recordAt .syncNotFound 0 [] s]
        counters := { s.counters with sync := s.counters.sync + 1 }
        seqState := .idle }
    else { s with seqState := .idle } := by
  by_cases missed : s.pass.eval = true ∧ s.pass.candSeen = false
  · rw [if_pos missed, passEnd_emits missed.1 missed.2]
    rfl
  · rw [if_neg missed, passEnd_silent missed]

end

/-- Settles O8: the sequencer's step runs what the code of SEQ_STATE decodes to. -/
theorem stepRunsSequencerState : Obligations.StepRunsSequencerState := by
  intro s i turn held decoded
  have selected : sequencerStep exec (afterTurn s) = exec i (afterTurn s) := by
    rw [sequencerStep, show (afterTurn s).seqState = s.seqState from rfl, decoded]
  exact (turnStep_sequencer turn held).trans selected

/-- Settles O27: with less than a frame left SCANNING is PassEnd. -/
theorem scanningEndsPass : Obligations.ScanningEndsPass := by
  intro s short
  have ended : exec .seqScanning s = .next (passEnd s) := congrArg Host.Outcome.next (if_pos short)
  rw [ended, passEnd_eq]

/-- Settles O34: the row's meaning is the state itself. -/
theorem cfgErrorTakesNoStep : Obligations.CfgErrorTakesNoStep := fun _ => rfl

end Sys2Proof.Machine
end

section
/-! PROOFS. What a step of the running sequencer can do, once, with the sizes the bounds need; from it the state graph,
the order of the offsets within a pass and the bound on a pass (46_resync_sequencer.md R280, R289, R290). -/

namespace Sys2Proof

/-- An attempt that decoded its marker advances by at least one bit (46_resync_sequencer.md R285). -/
theorem Config.Legal.advance_pos {c : Config} (legal : c.Legal) : 0 < c.F - c.V := by
  obtain ⟨-, -, -, -, -, -, -, -, -, overlap, -⟩ := legal.numbers
  omega

namespace Machine

open Sys2Proof.Claims

/-- The state an attempt goes on to when the step of its present one succeeds (46_resync_sequencer.md R280). -/
def stageAfter : SeqState → Option SeqState
  | .inner => some .decAsm
  | .decAsm => some .outer
  | .outer => some .integrity
  | .integrity => some .decrypt
  | .idle | .scanning | .decrypt | .cfgError => none

/-- The moves of the running sequencer (46_resync_sequencer.md R280): where each is made and how far it advances. -/
inductive SeqMove (c : Config) (s : State) : State → Prop where
  | passEnds (scanning : s.seqState = .scanning) (short : remaining s < c.F) : SeqMove c s (passEnd s)
  | candidate (scanning : s.seqState = .scanning) (frame : c.F ≤ remaining s) (l : Latches) (p : PassFlags) :
      SeqMove c s (attemptStart { s with latches := l, pass := p })
  | noCandidate (scanning : s.seqState = .scanning) (frame : c.F ≤ remaining s) (l : Latches) (p : PassFlags) :
      SeqMove c s (advance 1 { s with latches := l, pass := p })
  | goesOn {st : SeqState} (after : stageAfter s.seqState = some st) (dec data : Option Bytes) (l : Latches) :
      SeqMove c s { s with dec := dec, data := data, latches := l, seqState := st }
  | attemptEnds (running : attempting s.seqState = true) {n : Nat} (forward : 0 < n) (inFrame : n ≤ c.F)
      {u : State} (offset : u.offset = s.offset) (buf : u.buf = s.buf) (buflen : u.buflen = s.buflen)
      (mode : u.mode = s.mode) (turns : u.turns = s.turns) : SeqMove c s (finish n u)

section
variable {c : Config} {s t : State}

/-! ### Every step of the running sequencer makes one of them -/

theorem SeqMove.of_sequencerStep (legal : c.Legal) (busy : acceptsCommands s.seqState = false)
    (run : sequencerStep (execAt c) s = .next t) : SeqMove c s t := by
  have selected {i : Instr} (e : s.seqState.step = some i) : execAt c i s = .next t :=
    (sequencerStep_runs e).symm.trans run
  have success : c.F - c.V ≤ c.F := Nat.sub_le ..
  cases stage : s.seqState with
  | idle | cfgError => simp [stage, acceptsCommands] at busy
  | scanning =>
    rcases execAt_seqScanning_cases (selected (congrArg SeqState.step stage)) with
      ⟨short, rfl⟩ | ⟨passes, frame, -, rfl⟩
    · exact .passEnds stage short
    · cases passes with
      | true => exact .candidate stage frame _ _
      | false => exact .noCandidate stage frame _ _
  | inner =>
    rcases execAt_seqInner_cases (selected (congrArg SeqState.step stage)) with ⟨-, ⟨-, rfl⟩ | ⟨dec, n, -, rfl⟩⟩
    · exact .attemptEnds (congrArg attempting stage) one_pos legal.F_pos rfl rfl rfl rfl rfl
    · exact .goesOn (congrArg stageAfter stage) _ s.data _
  | decAsm =>
    obtain ⟨dec, -, ⟨-, rfl⟩ | ⟨-, rfl⟩⟩ := execAt_seqDecAsm_cases (selected (congrArg SeqState.step stage))
    · exact .attemptEnds (congrArg attempting stage) one_pos legal.F_pos rfl rfl rfl rfl rfl
    · exact .goesOn (congrArg stageAfter stage) s.dec s.data _
  | outer =>
    obtain ⟨dec, -, ⟨-, rfl⟩ | ⟨data, n, -, rfl⟩⟩ := execAt_seqOuter_cases (selected (congrArg SeqState.step stage))
    · exact .attemptEnds (congrArg attempting stage) one_pos legal.F_pos rfl rfl rfl rfl rfl
    · exact .goesOn (congrArg stageAfter stage) s.dec _ _
  | integrity =>
    obtain ⟨data, -, ⟨-, rfl⟩ | ⟨-, rfl⟩⟩ := execAt_seqIntegrity_cases (selected (congrArg SeqState.step stage))
    · exact .goesOn (congrArg stageAfter stage) s.dec s.data s.latches
    · exact .attemptEnds (congrArg attempting stage) legal.advance_pos success rfl rfl rfl rfl rfl
  | decrypt =>
    obtain ⟨data, -, rfl⟩ := execAt_seqDecrypt_cases (selected (congrArg SeqState.step stage))
    exact .attemptEnds (congrArg attempting stage) legal.advance_pos success rfl rfl rfl rfl rfl

/-! ### What PassEnd leaves -/

@[simp] theorem passEnd_seqState : (passEnd s).seqState = .idle := rfl
@[simp] theorem passEnd_offset : (passEnd s).offset = s.offset := by rw [passEnd_eq]; split <;> rfl
@[simp] theorem passEnd_buflen : (passEnd s).buflen = s.buflen := by rw [passEnd_eq]; split <;> rfl
@[simp] theorem passEnd_buf : (passEnd s).buf = s.buf := by rw [passEnd_eq]; split <;> rfl
@[simp] theorem passEnd_turns : (passEnd s).turns = s.turns := by rw [passEnd_eq]; split <;> rfl

/-! ### The state graph -/

theorem edge_of_stageAfter {a b : SeqState} (after : stageAfter a = some b) : edge a b = true := by
  cases a <;> cases after <;> rfl

/-- Every state of an attempt has both ways out. -/
theorem edge_of_attempting {st : SeqState} (running : attempting st = true) :
    edge st .scanning = true ∧ edge st .idle = true := by
  cases st with
  | inner | decAsm | outer | integrity | decrypt => exact ⟨rfl, rfl⟩
  | idle | scanning | cfgError => cases running

theorem SeqMove.follows_edge (move : SeqMove c s t) : edge s.seqState t.seqState = true := by
  cases move with
  | passEnds scanning | candidate scanning | noCandidate scanning => rw [scanning]; rfl
  | goesOn after => exact edge_of_stageAfter after
  | attemptEnds running =>
    obtain ⟨toScanning, toIdle⟩ := edge_of_attempting running
    rw [finish_seqState]
    split
    · exact toScanning
    · exact toIdle

theorem edge_of_sequencerStep (legal : c.Legal) (run : sequencerStep (execAt c) s = .next t) :
    edge s.seqState t.seqState = true := by
  cases stage : s.seqState with
  | idle =>
    cases (sequencerStep_idle stage).symm.trans run
    rw [stage]
    rfl
  | cfgError =>
    obtain rfl := execAt_seqCfgError_cases ((sequencerStep_runs (congrArg SeqState.step stage)).symm.trans run)
    rw [stage]
    rfl
  | _ => exact stage ▸ (SeqMove.of_sequencerStep legal (congrArg acceptsCommands stage) run).follows_edge

/-- Where commands are accepted SEQ_STATE may stay. -/
theorem edge_self {st : SeqState} (accepts : acceptsCommands st = true) : edge st st = true := by
  cases st with
  | idle | cfgError => rfl
  | _ => cases accepts

theorem eq_idle_of_accepts {st : SeqState} (accepts : acceptsCommands st = true) (ready : st ≠ .cfgError) :
    st = .idle := by
  cases st with
  | idle => rfl
  | cfgError => exact absurd rfl ready
  | _ => cases accepts

end

/-- Of the commands only SCAN and DGRAM write SEQ_STATE, and CFG_ERROR refuses both (40_host_commands.md R155). -/
theorem edge_of_acceptWord {w : Word} {s t : State} (accepts : acceptsCommands s.seqState = true)
    (run : acceptWord exec w s = .next t) : edge s.seqState t.seqState = true := by
  have stays (same : t.seqState = s.seqState) : edge s.seqState t.seqState = true := by
    rw [same]
    exact edge_self accepts
  unfold acceptWord at run
  split at run
  next i decoded =>
    have encoded : encode i = .command w := (encodeDecodeRoundTrip _ i decoded).2
    obtain ⟨-, -, -, -, -, -, -, -, -, -, writer, -⟩ := registersHaveTheirWriters i s t run
    rcases writer with same | rfl | rfl | rfl | rfl | rfl | rfl | rfl | rfl
    · exact stays same
    · rcases execAt_scan_cases (c := Config.machine) run with ⟨-, rfl⟩ | ⟨ready, -, rfl⟩
      · exact stays rfl
      · rw [eq_idle_of_accepts accepts ready]
        rfl
    · rcases execAt_dgram_cases (c := Config.machine) run with ⟨-, rfl⟩ | ⟨ready, -, -, rfl⟩ | ⟨-, -, -, rfl⟩
      · exact stays rfl
      · rw [eq_idle_of_accepts accepts ready]
        rfl
      · exact stays rfl
    all_goals cases encoded
  next =>
    cases run
    exact stays rfl

/-- Settles O44: a command or a move of the sequencer, by whether a word is taken. -/
theorem stepFollowsStateGraph : Obligations.StepFollowsStateGraph := by
  intro s t turn run
  by_cases held : acceptsCommands s.seqState = true → s.port = []
  · rw [step_eq_stepAt, stepAt, turnStep_sequencer turn held] at run
    exact edge_of_sequencerStep (s := afterTurn s) Config.machine_legal run
  · obtain ⟨accepts, waiting⟩ := Classical.not_imp.1 held
    obtain ⟨w, rest, port⟩ := List.exists_cons_of_ne_nil waiting
    rw [step_accepts turn accepts port] at run
    exact edge_of_acceptWord (s := { afterTurn s with port := rest }) accepts run

end Machine

end Sys2Proof
end

section
/-! PROOFS. Within a pass OFFSET only moves forward, and every pass and datagram attempt ends in IDLE within its bound
(46_resync_sequencer.md R289, R290). -/

namespace Sys2Proof.Machine

open Sys2Proof.Claims

section
variable {c : Config} {s t : State}

theorem attempting_of_stageAfter {a b : SeqState} (after : stageAfter a = some b) :
    attempting a = true ∧ attempting b = true := by
  cases a <;> cases after <;> exact ⟨rfl, rfl⟩

/-! ### No rescanning -/

theorem SeqMove.forward (move : SeqMove c s t) (legal : c.Legal) (sound : Inv c s) (mode : s.mode = .streaming) :
    s.offset.toNat ≤ t.offset.toNat ∧ (t.seqState = .scanning → s.offset.toNat < t.offset.toNat) ∧
      t.buf = s.buf ∧ t.buflen = s.buflen ∧
      (t.seqState = .idle → t.offset = s.offset ∧ t.buflen.toNat - t.offset.toNat < c.F) := by
  cases move with
  | passEnds scanning short => simpa [remaining] using short
  | candidate => simp
  | noCandidate scanning frame =>
    have F_pos := legal.F_pos
    have inside : s.offset.toNat + 1 ≤ s.buflen.toNat := by
      rw [remaining] at frame
      omega
    simp [offset_add inside]
  | goesOn after =>
    have running := (attempting_of_stageAfter after).2
    refine ⟨le_rfl, ?_, rfl, rfl, ?_⟩ <;> rintro rfl <;> cases running
  | @attemptEnds running n forward inFrame u offset buf buflen sameMode =>
    have frame := sound.frameInside running
    have inside : s.offset.toNat + n ≤ s.buflen.toNat := by omega
    rw [finish_streaming (sameMode.trans mode)]
    simp [offset, offset_add inside, buf, buflen, forward]

end

/-- Settles O46: by the sequencer's move. -/
theorem passNeverRescans : Obligations.PassNeverRescans := by
  intro s t sound mode turn busy run
  rw [step_eq_stepAt, stepAt, turnStep_sequencer turn (by simp [busy])] at run
  have move := SeqMove.of_sequencerStep (s := afterTurn s) Config.machine_legal busy run
  exact move.forward Config.machine_legal (sound.withTurns _) mode

/-! ### Termination -/

/-- The most steps after the end of the present attempt: in streaming mode those of a pass from the next bit on
(46_resync_sequencer.md R284, R285), in datagram mode none (R288). -/
def stepsAfterAttempt (c : Config) (s : State) : Nat :=
  match s.mode with
  | .streaming => 6 * (remaining s - c.F) + 1
  | .datagram => 0

/-- The steps an attempt takes at most from each of its states on (46_resync_sequencer.md R289). -/
def stagesLeft : SeqState → Nat
  | .inner => 5
  | .decAsm => 4
  | .outer => 3
  | .integrity => 2
  | .decrypt => 1
  | .idle | .scanning | .cfgError => 0

/-- The most steps until IDLE (46_resync_sequencer.md R289). -/
def stepsToIdle (c : Config) (s : State) : Nat :=
  match s.seqState with
  | .idle | .cfgError => 0
  | .scanning => passBound c s
  | stage => stagesLeft stage + stepsAfterAttempt c s

section
variable {c : Config} {s t : State}

theorem stepsAfterAttempt_le (c : Config) (s : State) : stepsAfterAttempt c s ≤ 6 * (remaining s - c.F) + 1 := by
  unfold stepsAfterAttempt
  split <;> omega

theorem stepsToIdle_scanning (scanning : s.seqState = .scanning) : stepsToIdle c s = passBound c s := by
  rw [stepsToIdle, scanning]

theorem stepsToIdle_attempting (running : attempting s.seqState = true) :
    stepsToIdle c s = stagesLeft s.seqState + stepsAfterAttempt c s := by
  cases stage : s.seqState with
  | inner | decAsm | outer | integrity | decrypt => rw [stepsToIdle, stage]
  | idle | scanning | cfgError =>
    rw [stage] at running
    cases running

theorem stagesLeft_pos {st : SeqState} (running : attempting st = true) : 0 < stagesLeft st := by
  cases st with
  | inner | decAsm | outer | integrity | decrypt => exact Nat.succ_pos _
  | idle | scanning | cfgError => cases running

theorem stagesLeft_of_stageAfter {a b : SeqState} (after : stageAfter a = some b) :
    stagesLeft a = stagesLeft b + 1 := by
  cases a <;> cases after <;> rfl

/-- Every move brings IDLE nearer: a failed window takes one step and one bit, and an attempt at most five more
(46_resync_sequencer.md R289). -/
theorem SeqMove.stepsToIdle_lt (move : SeqMove c s t) (legal : c.Legal) (sound : Inv c s) :
    stepsToIdle c t < stepsToIdle c s := by
  have F_pos := legal.F_pos
  cases move with
  | passEnds scanning =>
    rw [stepsToIdle_scanning scanning, passBound]
    exact Nat.succ_pos _
  | candidate scanning frame l p =>
    have rest := stepsAfterAttempt_le c (attemptStart { s with latches := l, pass := p })
    have same : remaining (attemptStart { s with latches := l, pass := p }) = remaining s := rfl
    rw [stepsToIdle_scanning scanning, passBound, stepsToIdle_attempting rfl, attemptStart_seqState, stagesLeft]
    omega
  | noCandidate scanning frame l p =>
    have left : s.buflen.toNat - s.offset.toNat = remaining s := rfl
    have inside : s.offset.toNat + 1 ≤ s.buflen.toNat := by omega
    rw [stepsToIdle_scanning scanning, stepsToIdle_scanning (advance_seqState ..), passBound, passBound]
    simp only [remaining, advance_offset, advance_buflen, offset_add inside]
    omega
  | @goesOn st after =>
    obtain ⟨running, goesOn⟩ := attempting_of_stageAfter after
    rw [stepsToIdle_attempting running, stepsToIdle_attempting goesOn, stagesLeft_of_stageAfter after]
    exact Nat.add_lt_add_right (Nat.lt_succ_self (stagesLeft st)) (stepsAfterAttempt c s)
  | @attemptEnds running n forward inFrame u offset _ buflen sameMode =>
    rw [stepsToIdle_attempting running]
    refine Nat.lt_of_le_of_lt ?_ (Nat.lt_add_of_pos_left (stagesLeft_pos running))
    cases mode : s.mode with
    | datagram =>
      rw [finish_datagram (sameMode.trans mode)]
      exact Nat.zero_le _
    | streaming =>
      have frame := sound.frameInside running
      have inside : s.offset.toNat + n ≤ s.buflen.toNat := by omega
      rw [finish_streaming (sameMode.trans mode), stepsToIdle_scanning (advance_seqState ..), passBound,
        stepsAfterAttempt, mode]
      simp only [remaining, advance_offset, advance_buflen, offset, offset_add inside, buflen]
      omega

theorem SeqMove.turns (move : SeqMove c s t) : t.turns = s.turns := by
  cases move with
  | attemptEnds _ _ _ _ _ _ _ turns => exact (finish_turns ..).trans turns
  | _ => simp

/-! ### The steps of an attempt on what they read -/

theorem stepAt_inner (turns : s.turns = []) (stage : s.seqState = .inner)
    (inside : s.offset.toNat + c.F ≤ s.buflen.toNat) :
    stepAt c s = .next (innerEffect c (slice s.buf s.offset.toNat c.F) s) :=
  (stepAt_sequencer turns (congrArg acceptsCommands stage) (congrArg SeqState.step stage)).trans
    (innerStep_inside inside)

theorem stepAt_decAsm {dec : Bytes} (turns : s.turns = []) (stage : s.seqState = .decAsm) (held : s.dec = some dec) :
    stepAt c s = .next (decAsmEffect c dec s) :=
  (stepAt_sequencer turns (congrArg acceptsCommands stage) (congrArg SeqState.step stage)).trans
    (decAsmStep_written held)

theorem stepAt_outer {dec : Bytes} (turns : s.turns = []) (stage : s.seqState = .outer) (held : s.dec = some dec) :
    stepAt c s = .next (outerEffect c dec s) :=
  (stepAt_sequencer turns (congrArg acceptsCommands stage) (congrArg SeqState.step stage)).trans
    (outerStep_written held)

theorem stepAt_integrity {data : Bytes} (turns : s.turns = []) (stage : s.seqState = .integrity)
    (held : s.data = some data) : stepAt c s = .next (integrityEffect c data s) :=
  (stepAt_sequencer turns (congrArg acceptsCommands stage) (congrArg SeqState.step stage)).trans
    (integrityStep_written held)

theorem stepAt_decrypt {data : Bytes} (turns : s.turns = []) (stage : s.seqState = .decrypt)
    (held : s.data = some data) : stepAt c s = .next (decryptEffect c (heldKey c s) data s) :=
  (stepAt_sequencer turns (congrArg acceptsCommands stage) (congrArg SeqState.step stage)).trans
    (decryptStep_written held)

/-- What the step of a running sequencer reads is there in a sound state: a whole frame, DEC or DATA. -/
theorem stepAt_answers (sound : Inv c s) (turns : s.turns = []) (busy : acceptsCommands s.seqState = false) :
    ∃ t, stepAt c s = .next t := by
  cases stage : s.seqState with
  | idle | cfgError => simp [stage, acceptsCommands] at busy
  | scanning => exact ⟨_, stepAt_sequencer turns busy (congrArg SeqState.step stage)⟩
  | inner => exact ⟨_, stepAt_inner turns stage (sound.frameInside (congrArg attempting stage))⟩
  | decAsm =>
    obtain ⟨dec, held, -⟩ := sound.decHeld (.inl stage)
    exact ⟨_, stepAt_decAsm turns stage held⟩
  | outer =>
    obtain ⟨dec, held, -⟩ := sound.decHeld (.inr stage)
    exact ⟨_, stepAt_outer turns stage held⟩
  | integrity =>
    obtain ⟨data, held, -⟩ := sound.dataHeld (.inl stage)
    exact ⟨_, stepAt_integrity turns stage held⟩
  | decrypt =>
    obtain ⟨data, held, -⟩ := sound.dataHeld (.inr stage)
    exact ⟨_, stepAt_decrypt turns stage held⟩

/-! ### Runs to IDLE -/

theorem SeqMove.of_stepAt (legal : c.Legal) (turns : s.turns = []) (busy : acceptsCommands s.seqState = false)
    (run : stepAt c s = .next t) : SeqMove c s t := by
  have ours : stepAt c s = coreStep (execAt c) s := by simp only [stepAt, turnStep, turns]
  rw [ours, coreStep_sequencer (by simp [busy])] at run
  exact .of_sequencerStep legal busy run

/-- No state but CFG_ERROR leads to it (46_resync_sequencer.md R280). -/
theorem eq_cfgError_of_edge {st : SeqState} (onEdge : edge st .cfgError = true) : st = .cfgError := by
  cases st with
  | cfgError => rfl
  | _ => cases onEdge

theorem SeqMove.ne_cfgError (move : SeqMove c s t) (busy : acceptsCommands s.seqState = false) :
    t.seqState ≠ .cfgError := by
  intro stopped
  have wasStopped := eq_cfgError_of_edge (stopped ▸ move.follows_edge)
  rw [wasStopped] at busy
  cases busy

/-- From a sound state outside CFG_ERROR, with no turn of another agent to come, IDLE is reached within the bound. -/
theorem exists_runsTo_idle (legal : c.Legal) (sound : Inv c s) (turns : s.turns = [])
    (ready : s.seqState ≠ .cfgError) : ∃ k t, k ≤ stepsToIdle c s ∧ runsTo c k s t ∧ t.seqState = .idle := by
  induction bound : stepsToIdle c s using Nat.strong_induction_on generalizing s with
  | _ n ih =>
    by_cases idle : s.seqState = .idle
    · exact ⟨0, s, Nat.zero_le _, rfl, idle⟩
    · have busy : acceptsCommands s.seqState = false :=
        Bool.eq_false_iff.2 fun accepts => idle (eq_idle_of_accepts accepts ready)
      obtain ⟨u, first⟩ := stepAt_answers sound turns busy
      have move := SeqMove.of_stepAt legal turns busy first
      have nearer := move.stepsToIdle_lt legal sound
      obtain ⟨k, t, within, rest, atIdle⟩ := ih _ (bound ▸ nearer) (sound.stepAt legal first)
        (move.turns.trans turns) (move.ne_cfgError busy) rfl
      exact ⟨k + 1, t, by omega, ⟨u, first, rest⟩, atIdle⟩

end

/-- Settles O47: the bound on the steps until IDLE, from SCANNING and from the INNER of a datagram. -/
theorem passAndAttemptTerminate : Obligations.PassAndAttemptTerminate := by
  intro c s legal sound turns
  refine ⟨fun scanning => ?_, fun mode inner => ?_⟩
  · have reached := exists_runsTo_idle legal sound turns (by simp [scanning])
    rwa [stepsToIdle_scanning scanning] at reached
  · have five : stepsToIdle c s = 5 := by simp only [stepsToIdle, inner, stagesLeft, stepsAfterAttempt, mode]
    have reached := exists_runsTo_idle legal sound turns (by simp [inner])
    rwa [five] at reached

end Sys2Proof.Machine
end

section
/-! PROOFS. A valid frame is decoded in six steps, and so are two of them in one pass (46_resync_sequencer.md R291). -/

namespace Sys2Proof.Machine

open Sys2Proof.Claims

/-- What a pass has done to `s` where it has decoded the frame at OFFSET (45_decryptor.md R263, 46_resync_sequencer.md
R285). -/
structure FrameDecoded (c : Config) (s t : State) : Prop where
  scanning : t.seqState = .scanning
  turns : t.turns = s.turns
  mode : t.mode = s.mode
  buf : t.buf = s.buf
  buflen : t.buflen = s.buflen
  offset : t.offset = s.offset + BitVec.ofNat 32 (c.F - c.V)
  record : ∃ r : Record, t.results = s.results ++ [r] ∧ r.code = .ok ∧ r.offset = s.offset
  count : t.counters.ok = s.counters.ok + 1

section
variable {c : Config} {s : State}

@[simp] theorem movedOn_results (n : Nat) (l : Latches) (p : PassFlags) : (movedOn n l p s).results = s.results := rfl

@[simp] theorem movedOn_counters (n : Nat) (l : Latches) (p : PassFlags) :
    (movedOn n l p s).counters = s.counters := rfl

/-- In datagram mode there is no scan (42_scanner.md R206). -/
theorem Inv.streaming_of_scanning (sound : Inv c s) (scanning : s.seqState = .scanning) : s.mode = .streaming := by
  cases mode : s.mode with
  | streaming => rfl
  | datagram => exact absurd scanning (sound.datagramScan mode)

theorem decryptEffect_streaming {key : Block} {data : Bytes} (mode : s.mode = .streaming) :
    decryptEffect c key data s = advance (c.F - c.V) { s with
      flags := { s.flags with lenClamp := if c.D < (parse c data).len then true else s.flags.lenClamp }
      results := s.results ++ [recordAt .ok 0 (okPayload c key data) s]
      counters := { s.counters with ok := s.counters.ok + 1 } } := by
  rw [decryptEffect_eq, ← finish_eq_attemptEnded]
  exact finish_streaming mode

/-- The six steps, one a state, over a frame that passes every check of an attempt. -/
theorem runsTo_frameDecoded (turns : s.turns = []) (mode : s.mode = .streaming) (scanning : s.seqState = .scanning)
    (frame : s.offset.toNat + c.F ≤ s.buflen.toNat) (valid : ValidFrame c s.buf s.offset.toNat) :
    ∃ t, runsTo c 6 s t ∧ FrameDecoded c s t := by
  obtain ⟨passes, dec, icorr, data, ocorr, innerDecoded, confirms, outerDecoded, agrees⟩ := valid
  refine ⟨_,
    ⟨_, .trans (stepAt_scanning turns scanning frame) (congrArg _ (evaluateWindow_passes passes)),
      _, .trans (stepAt_inner turns rfl frame) (congrArg _ (innerEffect_decodes innerDecoded)),
      _, .trans (stepAt_decAsm turns rfl rfl) (congrArg _ (decAsmEffect_confirms confirms)),
      _, .trans (stepAt_outer turns rfl rfl) (congrArg _ (outerEffect_decodes outerDecoded)),
      _, .trans (stepAt_integrity turns rfl rfl) (congrArg _ (integrityEffect_agrees agrees)),
      _, .trans (stepAt_decrypt turns rfl rfl) (congrArg _ (decryptEffect_streaming mode)), rfl⟩,
    ?_⟩
  exact ⟨rfl, rfl, rfl, rfl, rfl, rfl, ⟨_, rfl, rfl, rfl⟩, rfl⟩

end

/-- Settles O50: six steps for each frame, and between them a failed window for each bit of the overlap and the gap. -/
theorem backToBackFramesDecode : Obligations.BackToBackFramesDecode := by
  intro c s g legal sound turns scanning o valid1 valid2 room fail
  obtain ⟨-, -, -, -, -, -, -, -, -, overlap, -⟩ := legal.numbers
  have mode := sound.streaming_of_scanning scanning
  obtain ⟨u, first, decoded1⟩ := runsTo_frameDecoded turns mode scanning (by omega) valid1
  have uOffset : u.offset.toNat = o + (c.F - c.V) := by
    rw [decoded1.offset]
    exact offset_add (by omega)
  obtain ⟨l, p, gap⟩ := runsTo_movedOn (c := c) (n := c.V + g) (decoded1.turns.trans turns) decoded1.scanning
    (by rw [uOffset, decoded1.buflen]; omega)
    (fun q start before => by rw [decoded1.buf]; exact fail q (by omega) (by omega))
  have vOffset : (movedOn (c.V + g) l p u).offset.toNat = o + c.F + g := by
    rw [movedOn_offset _ _ _ (by rw [uOffset, decoded1.buflen]; omega), uOffset]
    omega
  obtain ⟨t, last, decoded2⟩ := runsTo_frameDecoded (c := c) (s := movedOn (c.V + g) l p u)
    (decoded1.turns.trans turns) (decoded1.mode.trans mode) decoded1.scanning
    (by rw [vOffset, movedOn_buflen, decoded1.buflen]; omega)
    (by rwa [vOffset, movedOn_buf, decoded1.buf])
  obtain ⟨r1, results1, code1, offset1⟩ := decoded1.record
  obtain ⟨r2, results2, code2, offset2⟩ := decoded2.record
  refine ⟨t, r1, r2, runsTo_append (runsTo_append first gap) last, decoded2.scanning,
    decoded2.buf.trans decoded1.buf, ?_, ?_, code1, by rw [offset1], code2, by rw [offset2, vOffset], ?_⟩
  · rw [decoded2.offset, offset_add (by rw [vOffset, movedOn_buflen, decoded1.buflen]; omega), vOffset]
    omega
  · rw [results2, movedOn_results, results1, List.append_assoc]
    rfl
  · rw [decoded2.count, movedOn_counters, decoded1.count, BitVec.add_assoc]
    rfl

end Sys2Proof.Machine
end

section
/-! PROOFS. What reset leaves, and CFG_ERROR until the next reset (70_reset_and_hazards.md R360 to R362,
60_exceptions.md R323). -/

namespace Sys2Proof.Machine

/-! ### Reset: the key before the inner codec before the outer one -/

section
variable {c : Config}

theorem resetCause_of_no_key (noKey : resetKey c = none) : resetCause c = 1 := if_pos noKey

theorem resetCause_of_no_inner (key : resetKey c ≠ none) (noInner : c.innerAvailable = false) : resetCause c = 2 := by
  rw [resetCause, if_neg key, if_pos noInner]

theorem resetCause_of_no_outer (key : resetKey c ≠ none) (inner : c.innerAvailable = true)
    (noOuter : c.outerAvailable = false) : resetCause c = 3 := by
  rw [resetCause, if_neg key, if_neg (ne_false_of_eq_true inner), if_pos noOuter]

theorem resetCause_of_available (key : resetKey c ≠ none) (inner : c.innerAvailable = true)
    (outer : c.outerAvailable = true) : resetCause c = 0 := by
  rw [resetCause, if_neg key, if_neg (ne_false_of_eq_true inner), if_neg (ne_false_of_eq_true outer)]

theorem resetSeqState_eq_idle (noCause : resetCause c = 0) : resetSeqState c = .idle := if_pos noCause

end

/-- Settles O12: the fixed values as they are written, the cause by its priority, and SEQ_STATE by the cause. -/
theorem resetLeavesStatedValues : Obligations.ResetLeavesStatedValues :=
  ⟨rfl, fun _ => ⟨rfl, rfl, rfl, rfl, rfl, rfl, rfl, rfl, rfl, rfl, rfl, rfl, rfl, rfl,
    resetCause_of_no_key, resetCause_of_no_inner, resetCause_of_no_outer, resetCause_of_available,
    resetSeqState_eq_idle, resetSeqState_eq_cfgError_iff.2⟩⟩

/-- Settles O36: the reset state of every configuration is sound, and so the machine's. -/
theorem resetSatisfiesInvariant : Obligations.ResetSatisfiesInvariant :=
  inv_resetAt Config.machine

/-! ### CFG_ERROR -/

section
variable {i : Instr} {w : Word} {s t : State}

/-- A command in CFG_ERROR answers NOP and READ_REG and refuses the rest (40_host_commands.md R155), so it writes at
most the sticky flags and the RESPONSE FIFO. -/
theorem exec_command_of_cfgError (stopped : s.seqState = .cfgError) (command : encode i = .command w)
    (run : exec i s = .next t) : ∃ flags responses, t = { s with flags := flags, responses := responses } := by
  rw [exec_eq_execAt] at run
  cases i with
  | nop => exact ⟨s.flags, s.responses, execAt_nop_cases run⟩
  | readReg a =>
    rcases execAt_readReg_cases run with ⟨_, -, rfl⟩ | ⟨-, rfl⟩
    · exact ⟨_, _, rfl⟩
    · exact ⟨_, _, rfl⟩
  | reservedOp op ignored => exact ⟨_, _, execAt_reservedOp_cases run⟩
  | pushBits | scan | dgram | resetStream | setMode | clear =>
    rw [← exec_eq_execAt, cfgErrorRefusesCommands _ s stopped (by simp)] at run
    cases run
    exact ⟨_, _, rfl⟩
  | seqScanning | seqInner | seqDecAsm | seqOuter | seqIntegrity | seqDecrypt | seqCfgError => cases command

theorem acceptWord_of_cfgError (stopped : s.seqState = .cfgError) (run : acceptWord exec w s = .next t) :
    ∃ flags responses, t = { s with flags := flags, responses := responses } := by
  cases decoded : decode (.command w) with
  | ok i =>
    rw [acceptWord_decoded decoded] at run
    exact exec_command_of_cfgError stopped (encodeDecodeRoundTrip _ i decoded).2 run
  | error e =>
    cases (acceptWord_reservedField decoded).symm.trans run
    exact ⟨_, _, rfl⟩

theorem sequencerStep_cfgError (stopped : s.seqState = .cfgError) : sequencerStep exec s = .next s := by
  rw [sequencerStep_runs (congrArg SeqState.step stopped), cfgErrorTakesNoStep]

/-- The step of HOST or SEQ in CFG_ERROR takes at most a word from the port and answers it. -/
theorem step_core_of_cfgError (stopped : s.seqState = .cfgError) (turn : coreTurn s = true) (run : step s = .next t) :
    ∃ flags responses port, t = { afterTurn s with flags := flags, responses := responses, port := port } := by
  cases port : s.port with
  | nil =>
    rw [step, turnStep_sequencer turn fun _ => port, sequencerStep_cfgError (s := afterTurn s) stopped] at run
    cases run
    exact ⟨_, _, _, rfl⟩
  | cons w rest =>
    rw [step_accepts turn (congrArg acceptsCommands stopped) port] at run
    obtain ⟨flags, responses, rfl⟩ := acceptWord_of_cfgError (s := { afterTurn s with port := rest }) stopped run
    exact ⟨flags, responses, rest, rfl⟩

end

/-- Settles O45: by whose turn it is. HOST and SEQ write none of these registers, and CONSUMER removes one record. -/
theorem cfgErrorLastsUntilReset : Obligations.CfgErrorLastsUntilReset := by
  intro s t stopped noReset run
  match turns : s.turns with
  | [] | .core :: _ =>
    have turn : coreTurn s = true := by rw [coreTurn, turns]
    obtain ⟨flags, responses, port, rfl⟩ := step_core_of_cfgError stopped turn run
    exact ⟨stopped, rfl, rfl, rfl, .inl rfl⟩
  | .takeResult :: _ =>
    cases (step_takeResult turns).symm.trans run
    exact ⟨stopped, rfl, rfl, rfl, .inr rfl⟩
  | .takeResponse :: _ =>
    cases (step_takeResponse turns).symm.trans run
    exact ⟨stopped, rfl, rfl, rfl, .inl rfl⟩
  | .reset :: _ => exact absurd (congrArg List.head? turns) noReset

end Sys2Proof.Machine
end
